-- ==== Sys2Proof/Word.lean ====
section
/-! DEFINITION. The word types of the go-chip8 CORE (00_scope.md §7: every value is unsigned). -/

namespace Sys2Proof

/-- A memory byte or a general register's value (10_state.md R10, 20_memory.md R33). -/
abbrev Byte := BitVec 8

/-- An instruction word, `I`, `PC` or a return address: 16 bits (10_state.md R12, R14, R15). -/
abbrev Word := BitVec 16

/-- A 4-bit field: a register selector `X` or `Y`, the row count `N`, a key code (30_encoding.md R47, 44_key_input.md R123). -/
abbrev Nibble := BitVec 4

/-- The 12-bit immediate `NNN` (30_encoding.md R47). -/
abbrev Imm12 := BitVec 12

end Sys2Proof
end

