-- ==== Sys2Proof/Syntax.lean ====
section
/-! DEFINITION. The instruction set's abstract syntax: one constructor per row of spec/opcode_table.json (30_encoding.md
R50), and the mnemonics and operand forms as names of their own (R48, R55). -/

namespace Sys2Proof

/-- The 34 instructions, in the order of 30_encoding.md R50. Every field has exactly the width 30_encoding.md R47 gives it,
so every term is an instruction. -/
inductive Instr where
  /-- 00E0, form Z: 43_sprite_drawing.md R110. -/
  | cls
  /-- 00EE, form Z: 41_control_flow.md R80. -/
  | ret
  /-- 1NNN, form A: 41_control_flow.md R81. -/
  | jp (nnn : Imm12)
  /-- 2NNN, form A: 41_control_flow.md R82. -/
  | call (nnn : Imm12)
  /-- 3XNN, form I: 41_control_flow.md R84. -/
  | sei (x : Nibble) (nn : Byte)
  /-- 4XNN, form I: 41_control_flow.md R85. -/
  | snei (x : Nibble) (nn : Byte)
  /-- 5XY0, form R: 41_control_flow.md R86. -/
  | se (x y : Nibble)
  /-- 6XNN, form I: 40_arithmetic.md R60. -/
  | ldi (x : Nibble) (nn : Byte)
  /-- 7XNN, form I: 40_arithmetic.md R61. -/
  | addi (x : Nibble) (nn : Byte)
  /-- 8XY0, form R: 40_arithmetic.md R62. -/
  | mov (x y : Nibble)
  /-- 8XY1, form R: 40_arithmetic.md R63. -/
  | or (x y : Nibble)
  /-- 8XY2, form R: 40_arithmetic.md R64. -/
  | and (x y : Nibble)
  /-- 8XY3, form R: 40_arithmetic.md R65. -/
  | xor (x y : Nibble)
  /-- 8XY4, form R: 40_arithmetic.md R66. -/
  | add (x y : Nibble)
  /-- 8XY5, form R: 40_arithmetic.md R67. -/
  | sub (x y : Nibble)
  /-- 8XY6, form R: 40_arithmetic.md R68. -/
  | shr (x y : Nibble)
  /-- 8XY7, form R: 40_arithmetic.md R69. -/
  | subn (x y : Nibble)
  /-- 8XYE, form R: 40_arithmetic.md R70. -/
  | shl (x y : Nibble)
  /-- 9XY0, form R: 41_control_flow.md R87. -/
  | sne (x y : Nibble)
  /-- ANNN, form A: 42_memory_transfer.md R95. -/
  | ldix (nnn : Imm12)
  /-- BNNN, form A: 41_control_flow.md R83. -/
  | jpv0 (nnn : Imm12)
  /-- CXNN, form I: 40_arithmetic.md R71. -/
  | rnd (x : Nibble) (nn : Byte)
  /-- DXYN, form S: 43_sprite_drawing.md R111. -/
  | drw (x y n : Nibble)
  /-- EX9E, form U: 44_key_input.md R120. -/
  | skp (x : Nibble)
  /-- EXA1, form U: 44_key_input.md R121. -/
  | sknp (x : Nibble)
  /-- FX07, form U: 45_timer_access.md R130. -/
  | getdt (x : Nibble)
  /-- FX15, form U: 45_timer_access.md R131. -/
  | setdt (x : Nibble)
  /-- FX18, form U: 45_timer_access.md R132. -/
  | setst (x : Nibble)
  /-- FX1E, form U: 42_memory_transfer.md R96. -/
  | addix (x : Nibble)
  /-- FX0A, form U: 44_key_input.md R122. -/
  | waitk (x : Nibble)
  /-- FX29, form U: 42_memory_transfer.md R97. -/
  | font (x : Nibble)
  /-- FX33, form U: 42_memory_transfer.md R98. -/
  | bcd (x : Nibble)
  /-- FX55, form U: 42_memory_transfer.md R100. -/
  | stm (x : Nibble)
  /-- FX65, form U: 42_memory_transfer.md R101. -/
  | ldm (x : Nibble)
  deriving DecidableEq, Repr

/-- The 34 mnemonics, the spec's own names (30_encoding.md R55). -/
inductive Mnemonic where
  | cls | ret | jp | call | sei | snei | se | ldi | addi
  | mov | or | and | xor | add | sub | shr | subn | shl
  | sne | ldix | jpv0 | rnd | drw | skp | sknp | getdt | setdt
  | setst | addix | waitk | font | bcd | stm | ldm
  deriving DecidableEq, Repr

/-- The six operand forms (30_encoding.md R48). -/
inductive Form where
  | Z | A | I | R | S | U
  deriving DecidableEq, Repr

/-- The mnemonic of an instruction (30_encoding.md R50). -/
def Instr.mnemonic : Instr → Mnemonic
  | .cls => .cls
  | .ret => .ret
  | .jp _ => .jp
  | .call _ => .call
  | .sei _ _ => .sei
  | .snei _ _ => .snei
  | .se _ _ => .se
  | .ldi _ _ => .ldi
  | .addi _ _ => .addi
  | .mov _ _ => .mov
  | .or _ _ => .or
  | .and _ _ => .and
  | .xor _ _ => .xor
  | .add _ _ => .add
  | .sub _ _ => .sub
  | .shr _ _ => .shr
  | .subn _ _ => .subn
  | .shl _ _ => .shl
  | .sne _ _ => .sne
  | .ldix _ => .ldix
  | .jpv0 _ => .jpv0
  | .rnd _ _ => .rnd
  | .drw _ _ _ => .drw
  | .skp _ => .skp
  | .sknp _ => .sknp
  | .getdt _ => .getdt
  | .setdt _ => .setdt
  | .setst _ => .setst
  | .addix _ => .addix
  | .waitk _ => .waitk
  | .font _ => .font
  | .bcd _ => .bcd
  | .stm _ => .stm
  | .ldm _ => .ldm

/-- The operands of an instruction as numbers, registers by their number, in the order of 30_encoding.md R55: `X` or `NNN`
first, then `Y` or `NN`, then `N`. -/
def Instr.operands : Instr → List Nat
  | .cls | .ret => []
  | .jp nnn | .call nnn | .ldix nnn | .jpv0 nnn => [nnn.toNat]
  | .sei x nn | .snei x nn | .ldi x nn | .addi x nn | .rnd x nn => [x.toNat, nn.toNat]
  | .se x y | .mov x y | .or x y | .and x y | .xor x y | .add x y | .sub x y => [x.toNat, y.toNat]
  | .shr x y | .subn x y | .shl x y | .sne x y => [x.toNat, y.toNat]
  | .drw x y n => [x.toNat, y.toNat, n.toNat]
  | .skp x | .sknp x | .getdt x | .setdt x | .setst x | .addix x | .waitk x | .font x => [x.toNat]
  | .bcd x | .stm x | .ldm x => [x.toNat]

/-- Every mnemonic, in the order of 30_encoding.md R50. -/
def Mnemonic.all : List Mnemonic :=
  [.cls, .ret, .jp, .call, .sei, .snei, .se, .ldi, .addi,
   .mov, .or, .and, .xor, .add, .sub, .shr, .subn, .shl,
   .sne, .ldix, .jpv0, .rnd, .drw, .skp, .sknp, .getdt, .setdt,
   .setst, .addix, .waitk, .font, .bcd, .stm, .ldm]

/-- The operand form of each mnemonic (30_encoding.md R50, column form). -/
def Mnemonic.form : Mnemonic → Form
  | .cls | .ret => .Z
  | .jp | .call | .ldix | .jpv0 => .A
  | .sei | .snei | .ldi | .addi | .rnd => .I
  | .se | .mov | .or | .and | .xor | .add | .sub | .shr | .subn => .R
  | .shl | .sne => .R
  | .drw => .S
  | .skp | .sknp | .getdt | .setdt | .setst | .addix | .waitk | .font | .bcd => .U
  | .stm | .ldm => .U

/-- The fixed bits of each form (30_encoding.md R48, column mask). -/
def Form.mask : Form → Word
  | .Z => 0xFFFF
  | .A => 0xF000
  | .I => 0xF000
  | .R => 0xF00F
  | .S => 0xF000
  | .U => 0xF0FF

/-- The mask of each row of 30_encoding.md R50. -/
def Mnemonic.mask (m : Mnemonic) : Word := m.form.mask

/-- The match value of each row of 30_encoding.md R50. -/
def Mnemonic.matchBits : Mnemonic → Word
  | .cls => 0x00E0
  | .ret => 0x00EE
  | .jp => 0x1000
  | .call => 0x2000
  | .sei => 0x3000
  | .snei => 0x4000
  | .se => 0x5000
  | .ldi => 0x6000
  | .addi => 0x7000
  | .mov => 0x8000
  | .or => 0x8001
  | .and => 0x8002
  | .xor => 0x8003
  | .add => 0x8004
  | .sub => 0x8005
  | .shr => 0x8006
  | .subn => 0x8007
  | .shl => 0x800E
  | .sne => 0x9000
  | .ldix => 0xA000
  | .jpv0 => 0xB000
  | .rnd => 0xC000
  | .drw => 0xD000
  | .skp => 0xE09E
  | .sknp => 0xE0A1
  | .getdt => 0xF007
  | .setdt => 0xF015
  | .setst => 0xF018
  | .addix => 0xF01E
  | .waitk => 0xF00A
  | .font => 0xF029
  | .bcd => 0xF033
  | .stm => 0xF055
  | .ldm => 0xF065

end Sys2Proof
end

