-- ==== Sys2Proof/WellFormed.lean ====
section
/-! DEFINITION. What is well formed before decoding: a 16-bit word that matches a row of the opcode table, and a source line
whose operands fit their fields. A term of `Instr` needs no check: its fields have exactly their widths. -/

namespace Sys2Proof

/-- Row `m` of 30_encoding.md R50 selects the word `w`: "`w & mask = match`". -/
def Mnemonic.selects (m : Mnemonic) (w : Word) : Bool := (w &&& m.mask) == m.matchBits

/-- A word is an instruction when some row of 30_encoding.md R50 selects it (R52: every other word is illegal). -/
def wordWellFormed (w : Word) : Bool := Mnemonic.all.any (fun m => m.selects w)

/-- A line of the assembler syntax of 30_encoding.md R55: a mnemonic and its operands as numbers, registers by their
number, in the order R55 writes them. -/
structure SourceLine where
  mnemonic : Mnemonic
  operands : List Nat
  deriving DecidableEq, Repr

/-- The number and the ranges of a line's operands (30_encoding.md R55: registers `V0` to `VF`, "`nn`, `nnn` and `n` are
numbers … that must fit 8, 12 and 4 bits"). -/
def SourceLine.wellFormed (l : SourceLine) : Bool :=
  match l.mnemonic.form, l.operands with
  | .Z, [] => true
  | .A, [nnn] => decide (nnn < 4096)
  | .I, [x, nn] => decide (x < 16) && decide (nn < 256)
  | .R, [x, y] => decide (x < 16) && decide (y < 16)
  | .S, [x, y, n] => decide (x < 16) && decide (y < 16) && decide (n < 16)
  | .U, [x] => decide (x < 16)
  | _, _ => false

end Sys2Proof
end

