-- ==== Sys2Proof/Decode.lean ====
section
/-! DEFINITION. Decoding a word (30_encoding.md R51) and encoding an instruction (R48, R50), the instruction's two bytes in
memory order (20_memory.md R30), and the assembly of a source line (R55). -/

namespace Sys2Proof

/-- Why bytes are no instruction. The six groups are those of 30_encoding.md R52; `truncated` is for a byte list that ends
inside a word (no fetch meets it: a fetch always reads two bytes). Each is safe: the engine raises DecodeFailure. -/
inductive DecodeError where
  | truncated
  | illegalGroup0 (w : Word)
  | illegalGroup5 (w : Word)
  | illegalGroup8 (w : Word)
  | illegalGroup9 (w : Word)
  | illegalGroupE (w : Word)
  | illegalGroupF (w : Word)
  deriving DecidableEq, Repr

/-- The field `op` = `w[15:12]` (30_encoding.md R47). -/
def fieldOp (w : Word) : Nibble := w.extractLsb' 12 4

/-- The field `X` = `w[11:8]` (30_encoding.md R47). -/
def fieldX (w : Word) : Nibble := w.extractLsb' 8 4

/-- The field `Y` = `w[7:4]` (30_encoding.md R47). -/
def fieldY (w : Word) : Nibble := w.extractLsb' 4 4

/-- The field `N` = `w[3:0]` (30_encoding.md R47). -/
def fieldN (w : Word) : Nibble := w.extractLsb' 0 4

/-- The field `NN` = `w[7:0]` (30_encoding.md R47). -/
def fieldNN (w : Word) : Byte := w.extractLsb' 0 8

/-- The field `NNN` = `w[11:0]` (30_encoding.md R47). -/
def fieldNNN (w : Word) : Imm12 := w.extractLsb' 0 12

/-- The 0 group tests the whole word (30_encoding.md R51). -/
def decodeGroup0 (w : Word) : Except DecodeError Instr :=
  if w = 0x00E0#16 then .ok .cls
  else if w = 0x00EE#16 then .ok .ret
  else .error (.illegalGroup0 w)

/-- The 5 group tests `N = 0` (30_encoding.md R51, 90_conflicts.md C6). -/
def decodeGroup5 (w : Word) : Except DecodeError Instr :=
  if fieldN w = 0#4 then .ok (.se (fieldX w) (fieldY w)) else .error (.illegalGroup5 w)

/-- The 8 group tests `N` (30_encoding.md R51). -/
def decodeGroup8 (w : Word) : Except DecodeError Instr :=
  match (fieldN w).toNat with
  | 0x0 => .ok (.mov (fieldX w) (fieldY w))
  | 0x1 => .ok (.or (fieldX w) (fieldY w))
  | 0x2 => .ok (.and (fieldX w) (fieldY w))
  | 0x3 => .ok (.xor (fieldX w) (fieldY w))
  | 0x4 => .ok (.add (fieldX w) (fieldY w))
  | 0x5 => .ok (.sub (fieldX w) (fieldY w))
  | 0x6 => .ok (.shr (fieldX w) (fieldY w))
  | 0x7 => .ok (.subn (fieldX w) (fieldY w))
  | 0xE => .ok (.shl (fieldX w) (fieldY w))
  | _ => .error (.illegalGroup8 w)

/-- The 9 group tests `N = 0` (30_encoding.md R51, 90_conflicts.md C6). -/
def decodeGroup9 (w : Word) : Except DecodeError Instr :=
  if fieldN w = 0#4 then .ok (.sne (fieldX w) (fieldY w)) else .error (.illegalGroup9 w)

/-- The E group tests `NN` (30_encoding.md R51). -/
def decodeGroupE (w : Word) : Except DecodeError Instr :=
  if fieldNN w = 0x9E#8 then .ok (.skp (fieldX w))
  else if fieldNN w = 0xA1#8 then .ok (.sknp (fieldX w))
  else .error (.illegalGroupE w)

/-- The F group tests `NN` (30_encoding.md R51). -/
def decodeGroupF (w : Word) : Except DecodeError Instr :=
  if fieldNN w = 0x07#8 then .ok (.getdt (fieldX w))
  else if fieldNN w = 0x0A#8 then .ok (.waitk (fieldX w))
  else if fieldNN w = 0x15#8 then .ok (.setdt (fieldX w))
  else if fieldNN w = 0x18#8 then .ok (.setst (fieldX w))
  else if fieldNN w = 0x1E#8 then .ok (.addix (fieldX w))
  else if fieldNN w = 0x29#8 then .ok (.font (fieldX w))
  else if fieldNN w = 0x33#8 then .ok (.bcd (fieldX w))
  else if fieldNN w = 0x55#8 then .ok (.stm (fieldX w))
  else if fieldNN w = 0x65#8 then .ok (.ldm (fieldX w))
  else .error (.illegalGroupF w)

/-- 30_encoding.md R51: dispatch on the leading nibble, then on the digits each pattern prints. The last arm is `op` = 0xF,
the only value left. -/
def decode (w : Word) : Except DecodeError Instr :=
  match (fieldOp w).toNat with
  | 0x0 => decodeGroup0 w
  | 0x1 => .ok (.jp (fieldNNN w))
  | 0x2 => .ok (.call (fieldNNN w))
  | 0x3 => .ok (.sei (fieldX w) (fieldNN w))
  | 0x4 => .ok (.snei (fieldX w) (fieldNN w))
  | 0x5 => decodeGroup5 w
  | 0x6 => .ok (.ldi (fieldX w) (fieldNN w))
  | 0x7 => .ok (.addi (fieldX w) (fieldNN w))
  | 0x8 => decodeGroup8 w
  | 0x9 => decodeGroup9 w
  | 0xA => .ok (.ldix (fieldNNN w))
  | 0xB => .ok (.jpv0 (fieldNNN w))
  | 0xC => .ok (.rnd (fieldX w) (fieldNN w))
  | 0xD => .ok (.drw (fieldX w) (fieldY w) (fieldN w))
  | 0xE => decodeGroupE w
  | _ => decodeGroupF w

/-- The word of two bytes in memory order: the byte at the lower address is the more significant (20_memory.md R30). -/
def wordOfBytes (first second : Byte) : Word := first ++ second

/-- The two bytes of a word in memory order (20_memory.md R30). -/
def bytesOfWord (w : Word) : List Byte := [w.extractLsb' 8 8, w.extractLsb' 0 8]

/-- Decode the first instruction of a byte list and give back the rest. Total: any bytes give an instruction or a named
error (30_encoding.md R46: every instruction is two bytes). -/
def decodeBytes : List Byte → Except DecodeError (Instr × List Byte)
  | first :: second :: rest =>
    match decode (wordOfBytes first second) with
    | .ok i => .ok (i, rest)
    | .error e => .error e
  | _ => .error .truncated

/-- The word of each instruction, digit by digit from its pattern (30_encoding.md R50). -/
def encode : Instr → Word
  | .cls => 0x00E0#16
  | .ret => 0x00EE#16
  | .jp nnn => 0x1#4 ++ nnn
  | .call nnn => 0x2#4 ++ nnn
  | .sei x nn => 0x3#4 ++ x ++ nn
  | .snei x nn => 0x4#4 ++ x ++ nn
  | .se x y => 0x5#4 ++ x ++ y ++ 0x0#4
  | .ldi x nn => 0x6#4 ++ x ++ nn
  | .addi x nn => 0x7#4 ++ x ++ nn
  | .mov x y => 0x8#4 ++ x ++ y ++ 0x0#4
  | .or x y => 0x8#4 ++ x ++ y ++ 0x1#4
  | .and x y => 0x8#4 ++ x ++ y ++ 0x2#4
  | .xor x y => 0x8#4 ++ x ++ y ++ 0x3#4
  | .add x y => 0x8#4 ++ x ++ y ++ 0x4#4
  | .sub x y => 0x8#4 ++ x ++ y ++ 0x5#4
  | .shr x y => 0x8#4 ++ x ++ y ++ 0x6#4
  | .subn x y => 0x8#4 ++ x ++ y ++ 0x7#4
  | .shl x y => 0x8#4 ++ x ++ y ++ 0xE#4
  | .sne x y => 0x9#4 ++ x ++ y ++ 0x0#4
  | .ldix nnn => 0xA#4 ++ nnn
  | .jpv0 nnn => 0xB#4 ++ nnn
  | .rnd x nn => 0xC#4 ++ x ++ nn
  | .drw x y n => 0xD#4 ++ x ++ y ++ n
  | .skp x => 0xE#4 ++ x ++ 0x9E#8
  | .sknp x => 0xE#4 ++ x ++ 0xA1#8
  | .getdt x => 0xF#4 ++ x ++ 0x07#8
  | .setdt x => 0xF#4 ++ x ++ 0x15#8
  | .setst x => 0xF#4 ++ x ++ 0x18#8
  | .addix x => 0xF#4 ++ x ++ 0x1E#8
  | .waitk x => 0xF#4 ++ x ++ 0x0A#8
  | .font x => 0xF#4 ++ x ++ 0x29#8
  | .bcd x => 0xF#4 ++ x ++ 0x33#8
  | .stm x => 0xF#4 ++ x ++ 0x55#8
  | .ldm x => 0xF#4 ++ x ++ 0x65#8

/-- The word that form `f` makes of a row's match value and the operands of a source line (30_encoding.md R48, R55): the
first operand is `X` or `NNN`, then `Y` or `NN`, then `N`. -/
def assembleWord (f : Form) (m : Word) (operands : List Nat) : Word :=
  match f, operands with
  | .A, [nnn] => m + BitVec.ofNat 16 nnn
  | .I, [x, nn] => m + BitVec.ofNat 16 (256 * x + nn)
  | .R, [x, y] => m + BitVec.ofNat 16 (256 * x + 16 * y)
  | .S, [x, y, n] => m + BitVec.ofNat 16 (256 * x + 16 * y + n)
  | .U, [x] => m + BitVec.ofNat 16 (256 * x)
  | _, _ => m

/-- Assemble a source line: the word of a well-formed line, nothing for another (30_encoding.md R55). -/
def SourceLine.assemble (l : SourceLine) : Option Word :=
  if l.wellFormed then some (assembleWord l.mnemonic.form l.mnemonic.matchBits l.operands) else none

/-- The instruction the decoder reads from a word `w` of `nbits` bits, numbered as spec/opcode_table.json numbers them; the
bits above `nbits` are 0. -/
def decodeTableWord (nbits w : Nat) : Option Instr :=
  match decodeBytes (bytesOfWord (BitVec.ofNat 16 (w % 2 ^ nbits))) with
  | .ok (i, _) => some i
  | .error _ => none

end Sys2Proof
end

