-- ==== Sys2Proof/Config.lean ====
section
/-! DEFINITION. The free values: the answers the spec leaves to the outside (93_implementation_defined.md U6, U7, U8, U13,
U14). None has a body, so nothing can be proved of a value. The parameters of 00_scope.md R4 are in Machine/Params.lean. -/

namespace Sys2Proof

/-- The random byte of CXNN, at the `n`-th draw: any value 0 to 255 (40_arithmetic.md R71, U6). Free value (log 5). -/
opaque Config.random8 : Nat → Byte

/-- The Input Source's answer to `isKeyHeld(k)`, at the `n`-th draw (44_key_input.md R123, U7). Free value (log 5). -/
opaque Config.keyHeld : Nat → Nibble → Bool

/-- What `waitForNextKey()` does at the `n`-th draw: no event yet, or the code 0 to 15 it returns (44_key_input.md R122,
U8). Free value (log 5): nothing says that an event ever comes. -/
opaque Config.keyEvent : Nat → Option Nibble

/-- How many delay tick steps fall into the gap at the `n`-th draw (60_exceptions.md R156, U13). Free value (log 4, 5). -/
opaque Config.delayTicks : Nat → Nat

/-- How many sound tick steps fall into the gap at the `n`-th draw (60_exceptions.md R156, U13). Free value (log 4, 5). -/
opaque Config.soundTicks : Nat → Nat

end Sys2Proof
end

