-- ==== Sys2Proof/Machine/Params.lean ====
section
/-! DEFINITION. The parameters of 00_scope.md R4: the value this hardware takes for each constant, and the OPEN ones as an
argument with the spec's defaults. -/

namespace Sys2Proof

/-- `MEM_SIZE`: 4096 bytes (00_scope.md R4). -/
def Config.memSize : Nat := 4096

/-- `STACK_DEPTH`: 16 return addresses (00_scope.md R4, 92_eei_decisions.md D5). -/
def Config.stackDepth : Nat := 16

/-- `FONT_BASE`: 0x050 (00_scope.md R4). -/
def Config.fontBase : Nat := 0x050

/-- `PROG_BASE`: 0x200 (00_scope.md R4). -/
def Config.progBase : Nat := 0x200

/-- `PROG_MAX`: 4096 − 0x200 = 3584 bytes (00_scope.md R4). -/
def Config.progMax : Nat := 3584

/-- `TICK_HZ`: 60 per second for each timer; timing only, no rule reads it (00_scope.md R4, 70_reset_and_hazards.md R185). -/
def Config.tickHz : Nat := 60

/-- The default of the OPEN parameter `IPS`, about 700 per second; no rule reads `IPS` (00_scope.md R4, 92_eei_decisions.md
D14). -/
def Config.ips : Nat := 700

/-- The default of `FONT[0..79]`, glyphs 0 to 7. PRESUMED (log 2): the default table of 20_memory.md R38, which the spec takes from
general knowledge (93_implementation_defined.md G1). -/
def Config.fontLow : List Byte :=
  [0xF0, 0x90, 0x90, 0x90, 0xF0,  0x20, 0x60, 0x20, 0x20, 0x70,
   0xF0, 0x10, 0xF0, 0x80, 0xF0,  0xF0, 0x10, 0xF0, 0x10, 0xF0,
   0x90, 0x90, 0xF0, 0x10, 0x10,  0xF0, 0x80, 0xF0, 0x10, 0xF0,
   0xF0, 0x80, 0xF0, 0x90, 0xF0,  0xF0, 0x10, 0x20, 0x40, 0x40]

/-- The default of `FONT[0..79]`, glyphs 8 to F (20_memory.md R38). PRESUMED (log 2). -/
def Config.fontHigh : List Byte :=
  [0xF0, 0x90, 0xF0, 0x90, 0xF0,  0xF0, 0x90, 0xF0, 0x10, 0xF0,
   0xF0, 0x90, 0xF0, 0x90, 0x90,  0xE0, 0x90, 0xE0, 0x90, 0xE0,
   0xF0, 0x80, 0x80, 0x80, 0xF0,  0xE0, 0x90, 0x90, 0x90, 0xE0,
   0xF0, 0x80, 0xF0, 0x80, 0xF0,  0xF0, 0x80, 0xF0, 0x80, 0x80]

/-- The default of the OPEN parameter `FONT[0..79]`: 16 glyphs of five bytes (20_memory.md R37, R38). PRESUMED (log 2). -/
def Config.font : List Byte := Config.fontLow ++ Config.fontHigh

/-- What a byte of `MEM` holds at reset with the default `FONT`, before any image is loaded: the font at 0x050 to 0x09F, zero
elsewhere (10_state.md R24, 20_memory.md R36). This is what an address that memory does not list reads as; with another `FONT`
memory lists the bytes that differ (`State.resetWith`). -/
def Config.memReset (a : Nat) : Byte :=
  if Config.fontBase ≤ a ∧ a < Config.fontBase + 80 then Config.font.getD (a - Config.fontBase) 0 else 0

/-- The default of the OPEN parameter `FB_RESET`, the display's pixels at reset, by rows: all clear (00_scope.md R4,
92_eei_decisions.md D8). DESIGN CHOICE (log 1): `State.reset` takes it. -/
def Config.fbReset : Vector (Vector Bool 64) 32 := Vector.replicate 32 (Vector.replicate 64 false)

/-- The OPEN parameters of 00_scope.md R4, which "a model takes … as an argument": `State.resetWith` takes them. -/
structure Config.Parameters where
  /-- `FONT[0..79]` (92_eei_decisions.md D7). -/
  font : Vector Byte 80
  /-- `FB_RESET`, by rows (92_eei_decisions.md D8). -/
  fbReset : Vector (Vector Bool 64) 32
  /-- `IPS`, read by no rule (92_eei_decisions.md D14). -/
  ips : Nat
  deriving DecidableEq, Repr

/-- The spec's default for each OPEN parameter (00_scope.md R4; log 1, log 2). -/
def Config.defaults : Config.Parameters where
  font := ⟨Config.font.toArray, rfl⟩
  fbReset := Config.fbReset
  ips := Config.ips

end Sys2Proof
end

