-- ==== Sys2Proof/Machine/State.lean ====
section
/-! DEFINITION. The machine's state as plain data (10_state.md), its reasons to stop, and the state after reset (R24). -/

namespace Sys2Proof.Machine

/-- The engine mode `MODE` (10_state.md R18). `waitKey x` holds the field `X` of the FX0A that waits, which 44_key_input.md
R122 writes when the key event comes. DEDUCED (log 6): the spec implies that the engine holds `X` during the wait. -/
inductive Mode where
  | run
  | waitKey (x : Nibble)
  | halted
  deriving DecidableEq, Repr

/-- The tone state `TONE` (10_state.md R21). -/
inductive Tone where
  | off
  | on
  deriving DecidableEq, Repr

/-- A fault record `(kind, word, addr)` (10_state.md R19): the constructor is the kind. `loadError` has no word and no
address. -/
inductive FaultRecord where
  | decodeFailure (word addr : Word)
  | stackUnderflow (word addr : Word)
  | stackOverflow (word addr : Word)
  | loadError
  deriving DecidableEq, Repr

/-- Main memory `MEM` (10_state.md R20): the cells that differ from the default reset contents `Config.memReset`, by strictly
rising address. -/
structure Memory where
  cells : List Host.Cell
  deriving DecidableEq, Repr

/-- The display `FB` (10_state.md R20): 32 rows of 64 pixels, `true` is set. -/
structure Display where
  rows : Vector (Vector Bool 64) 32
  deriving DecidableEq, Repr

/-- The whole state of the machine. -/
structure State where
  /-- `V[0]` to `V[15]` (10_state.md R10); `V[15]` is the flag VF (R11). -/
  regs : Vector Byte 16
  /-- `I` (10_state.md R14). -/
  idx : Word
  /-- `PC` (10_state.md R12). -/
  pc : Word
  /-- `STACK`, oldest return address first (10_state.md R15). -/
  stack : List Word
  /-- `DT` (10_state.md R16). -/
  dt : Byte
  /-- `ST` (10_state.md R17). -/
  st : Byte
  /-- `MODE` (10_state.md R18). -/
  mode : Mode
  /-- `FAULT` (10_state.md R19). -/
  fault : Option FaultRecord
  /-- `MEM` (10_state.md R20). -/
  mem : Memory
  /-- `FB` (10_state.md R20). -/
  fb : Display
  /-- `TONE` (10_state.md R21). -/
  tone : Tone
  /-- The model's own: how many free answers have been taken (log 5). No rule of the spec reads it. -/
  draws : Nat
  deriving DecidableEq, Repr

/-- Why a step stops. -/
inductive Fault where
  /-- Raised by `step` alone, in a state with `MODE = HALTED`: no agent takes a step (60_exceptions.md R146). It presents the
  fault record to the host (R145). Safe: the machine stops exactly where the spec says no step is taken (log 7). -/
  | halted (record : Option FaultRecord)
  deriving DecidableEq, Repr

/-- Why a step is refused. -/
inductive Refusal where
  /-- An instruction with no meaning yet, rejected by name in `exec`; no arm raises it. Safe: the run stops. -/
  | notModelled (mnemonic : String)
  deriving DecidableEq, Repr

/-- The machine right after reset (10_state.md R24, 70_reset_and_hazards.md R171), with the spec's defaults for the OPEN
parameters (log 1, log 2), an empty program image (log 9), and the run started (R172). `State.resetWith` takes any
parameters. -/
def State.reset : State where
  regs := Vector.replicate 16 0
  idx := 0
  pc := 0x0200
  stack := []
  dt := 0
  st := 0
  mode := .run
  fault := none
  mem := ⟨[]⟩
  fb := ⟨Config.fbReset⟩
  tone := .off
  draws := 0

end Sys2Proof.Machine
end

