-- ==== Sys2Proof/Machine/Ops.lean ====
section
/-! DEFINITION. The named operations over registers, program counter, call stack, memory, display, timers and the free
answers (00_scope.md §7), and raising a fatal condition (60_exceptions.md R145), the one trap entry of the hardware. There
is no trap return (R147). -/

namespace Sys2Proof.Machine

/-! Updates of one field each. -/

/-- `V[x] <- b` (10_state.md R10). -/
def State.setV (s : State) (x : Nibble) (b : Byte) : State :=
  { s with regs := s.regs.set x.toNat b x.isLt }

/-- `I <- w` (10_state.md R14). -/
def State.setIdx (s : State) (w : Word) : State := { s with idx := w }

/-- `PC <- w` (10_state.md R12). -/
def State.setPc (s : State) (w : Word) : State := { s with pc := w }

/-- `STACK <- ws` (10_state.md R15). -/
def State.setStack (s : State) (ws : List Word) : State := { s with stack := ws }

/-- `DT <- b` (10_state.md R16). -/
def State.setDt (s : State) (b : Byte) : State := { s with dt := b }

/-- `ST <- b` (10_state.md R17). -/
def State.setSt (s : State) (b : Byte) : State := { s with st := b }

/-- `MODE <- m` (10_state.md R18). -/
def State.setMode (s : State) (m : Mode) : State := { s with mode := m }

/-- `FAULT <- r` (10_state.md R19). -/
def State.setFault (s : State) (r : Option FaultRecord) : State := { s with fault := r }

/-- `MEM <- m` (10_state.md R20). -/
def State.setMem (s : State) (m : Memory) : State := { s with mem := m }

/-- `FB <- d` (10_state.md R20). -/
def State.setFb (s : State) (d : Display) : State := { s with fb := d }

/-- `TONE <- t` (10_state.md R21). -/
def State.setTone (s : State) (t : Tone) : State := { s with tone := t }

/-- One more free answer has been taken (the model's own counter, log 5). -/
def State.nextDraw (s : State) : State := { s with draws := s.draws + 1 }

/-! General registers. -/

/-- `V[x]` (10_state.md R10). -/
def State.V (s : State) (x : Nibble) : Byte := s.regs[x.toNat]'x.isLt

/-- Write the result register, then VF, which is last (10_state.md R11, 40_arithmetic.md R72, 90_conflicts.md C1). -/
def State.setVThenFlag (s : State) (x : Nibble) (result flag : Byte) : State :=
  (s.setV x result).setV 15 flag

/-! Program counter and call stack. -/

/-- The fetch's advance: `PC <- (PC + 2) mod 65536` (10_state.md R13). -/
def State.advancePc (s : State) : State := s.setPc (s.pc + 2)

/-- `PC0` of the instruction that executes: `PC` already holds `(PC0 + 2) mod 65536` (30_encoding.md R45, log 8). -/
def State.pc0 (s : State) : Word := s.pc - 2

/-- A skip: taken, it adds 2 to the advanced `PC` (41_control_flow.md R88). -/
def State.skipIf (s : State) (taken : Bool) : State := if taken then s.setPc (s.pc + 2) else s

/-- `push(STACK, w)` (00_scope.md §7). -/
def State.push (s : State) (w : Word) : State := s.setStack (s.stack ++ [w])

/-! Main memory. -/

/-- What the cells give for address `a`: the listed byte, or the default reset contents (10_state.md R24). -/
def readCells : List Host.Cell → Nat → Byte
  | [], a => Config.memReset a
  | (k, v) :: rest, a => if k = a then v else readCells rest a

/-- One cell in canonical form: none when the byte is what an unlisted address reads as. -/
def putCell (a : Nat) (b : Byte) (rest : List Host.Cell) : List Host.Cell :=
  if b = Config.memReset a then rest else (a, b) :: rest

/-- The cells with the byte at `a` replaced, sorted and without default reset contents. -/
def writeCells : List Host.Cell → Nat → Byte → List Host.Cell
  | [], a, b => putCell a b []
  | (k, v) :: rest, a, b =>
    if a < k then putCell a b ((k, v) :: rest)
    else if a = k then putCell a b rest
    else (k, v) :: writeCells rest a b

/-- The canonical form of memory: addresses strictly rising and below 4096, no cell that holds its default reset
contents. -/
abbrev Memory.wf (m : Memory) : Prop :=
  m.cells.Pairwise (fun p q => p.1 < q.1) ∧
    ∀ c ∈ m.cells, c.1 < Config.memSize ∧ c.2 ≠ Config.memReset c.1

/-- `MemRead(addr, 1)`: the byte at `addr mod 4096` (20_memory.md R31). -/
def Memory.read (m : Memory) (addr : Nat) : Byte := readCells m.cells (addr % Config.memSize)

/-- `MemWrite(addr, 1, b)`: stores at `addr mod 4096` (20_memory.md R32). -/
def Memory.write (m : Memory) (addr : Nat) (b : Byte) : Memory := ⟨writeCells m.cells (addr % Config.memSize) b⟩

/-- `MemRead(addr, 1)` (20_memory.md R31). -/
def State.memRead (s : State) (addr : Nat) : Byte := s.mem.read addr

/-- `MemWrite(addr, 1, b)` (20_memory.md R32). -/
def State.memWrite (s : State) (addr : Nat) (b : Byte) : State := s.setMem (s.mem.write addr b)

/-- Store bytes at rising addresses from `addr` on, each taken modulo 4096 (20_memory.md R33, 42_memory_transfer.md R99). -/
def State.storeBytes (s : State) (addr : Nat) : List Byte → State
  | [] => s
  | b :: rest => (s.memWrite addr b).storeBytes (addr + 1) rest

/-- Load memory at rising addresses from `addr` on into the listed registers, in order (42_memory_transfer.md R101). -/
def State.loadRegs (s : State) (addr : Nat) : List Nibble → State
  | [] => s
  | k :: rest => (s.setV k (s.memRead addr)).loadRegs (addr + 1) rest

/-! Instruction fetch. -/

/-- `MemRead(PC, 1) ∥ MemRead(PC + 1, 1)` (20_memory.md R30, R34: any parity, each address modulo 4096). -/
def State.fetchWord (s : State) : Word := wordOfBytes (s.memRead s.pc.toNat) (s.memRead (s.pc.toNat + 1))

/-- Store the word `w` where the next instruction is fetched, high byte first, and let the execute loop run (log 9). -/
def State.placeWord (s : State) (w : Word) : State :=
  (s.storeBytes s.pc.toNat (bytesOfWord w)).setMode .run

/-! The display (00_scope.md R5). A pixel outside the grid reads as clear and is not written; no instruction asks for one
(43_sprite_drawing.md R113; log 11). -/

/-- `isPixelSet(col, row)` (00_scope.md R5). -/
def Display.isPixelSet (d : Display) (col row : Nat) : Bool :=
  match d.rows[row]? with
  | some r => r[col]?.getD false
  | none => false

/-- `setPixel(col, row, on)` (00_scope.md R5). -/
def Display.setPixel (d : Display) (col row : Nat) (on : Bool) : Display :=
  match d.rows[row]? with
  | some r => ⟨d.rows.setIfInBounds row (r.setIfInBounds col on)⟩
  | none => d

/-- `clear()`: every pixel becomes clear (00_scope.md R5). -/
def Display.clear : Display := ⟨Vector.replicate 32 (Vector.replicate 64 false)⟩

/-! Fatal conditions (60_exceptions.md R145). -/

/-- `raise`: `FAULT` takes the record if it is empty, `MODE <- HALTED`, nothing else changes (60_exceptions.md R145). The
caller's `PC` is already advanced (R141). -/
def State.raise (s : State) (r : FaultRecord) : State :=
  (s.setFault (match s.fault with
    | none => some r
    | some earlier => some earlier)).setMode .halted

/-! Free answers. Each takes the answer at the counter's value and advances the counter (log 5). -/

/-- `Random8()` (40_arithmetic.md R71). -/
def State.random8 (s : State) : Byte := Config.random8 s.draws

/-- `KeyHeld(k)` (44_key_input.md R123). -/
def State.keyHeld (s : State) (k : Nibble) : Bool := Config.keyHeld s.draws k

/-- `KeyEvent()`: the code it returns, or nothing yet (44_key_input.md R122). -/
def State.keyEvent (s : State) : Option Nibble := Config.keyEvent s.draws

end Sys2Proof.Machine
end

