-- ==== Sys2Proof/Machine/Boot.lean ====
section
/-! DEFINITION. Reset with any OPEN parameters, loading the program image, starting the run (70_reset_and_hazards.md R171,
R172; 20_memory.md R39). -/

namespace Sys2Proof.Machine

/-- The state after reset with the OPEN parameters `p`: the display at `FB_RESET`, `FONT[j]` at `MEM[0x050 + j]`, all else as
`State.reset`; `IPS` is read by nothing (70_reset_and_hazards.md R171, steps 1 and 2; 00_scope.md R4). -/
def State.resetWith (p : Config.Parameters) : State :=
  (State.reset.setFb ⟨p.fbReset⟩).storeBytes Config.fontBase p.font.toList

/-- `load(image)`: an image that is too long is the LoadError and writes nothing (60_exceptions.md R143); else byte `j` goes
to `MEM[0x200 + j]` (20_memory.md R39). -/
def State.load (s : State) (image : List Byte) : State :=
  if Config.progMax < image.length then s.raise .loadError
  else s.storeBytes Config.progBase image

/-- The state with which a run of `image` starts, with the OPEN parameters `p` (70_reset_and_hazards.md R171, R172). -/
def State.boot (p : Config.Parameters) (image : List Byte) : State := (State.resetWith p).load image

end Sys2Proof.Machine
end

