-- ==== Sys2Proof/Machine/Operands.lean ====
section
/-! DEFINITION. The operand forms: how an instruction's fields name values and addresses (30_encoding.md R49,
42_memory_transfer.md R99, 43_sprite_drawing.md R111, 44_key_input.md R120). -/

namespace Sys2Proof.Machine

/-- `NNN` as a 16-bit value (30_encoding.md R49, 42_memory_transfer.md R95: zero-extended). -/
def imm16 (nnn : Imm12) : Word := nnn.setWidth 16

/-- An 8-bit register's value as a 16-bit value (41_control_flow.md R83: unsigned). -/
def byte16 (b : Byte) : Word := b.setWidth 16

/-- `V[x] & 0xF`, as a key code or a glyph number (44_key_input.md R120, 42_memory_transfer.md R97). -/
def State.lowNibble (s : State) (x : Nibble) : Nibble := (s.V x).setWidth 4

/-- A key code as a register value: bits 7 to 4 are 0 (44_key_input.md R122). -/
def keyByte (k : Nibble) : Byte := k.setWidth 8

/-- The effective address of the `k`-th byte of a transfer: `(I + k) mod 4096` (42_memory_transfer.md R99). -/
def State.dataAddr (s : State) (k : Nat) : Nat := (s.idx.toNat + k) % Config.memSize

/-- The registers `V[0]` to `V[x]`, in order (30_encoding.md R49). -/
def blockRegs (x : Nibble) : List Nibble := (List.range (x.toNat + 1)).map (BitVec.ofNat 4)

/-- The address of glyph `k`: `0x050 + 5 × k` (20_memory.md R37). -/
def glyphAddr (k : Nibble) : Word := BitVec.ofNat 16 (Config.fontBase + 5 * k.toNat)

/-- The sprite's origin column: `V[x] mod 64` (43_sprite_drawing.md R111). -/
def State.originCol (s : State) (x : Nibble) : Nat := (s.V x).toNat % 64

/-- The sprite's origin row: `V[y] mod 32` (43_sprite_drawing.md R111). -/
def State.originRow (s : State) (y : Nibble) : Nat := (s.V y).toNat % 32

end Sys2Proof.Machine
end

