-- ==== Sys2Proof/Machine/Flags.lean ====
section
/-! DEFINITION. The flag computations: the seven values VF takes as a flag (10_state.md R11), each 0 or 1 and computed from
the operands as read at the start (40_arithmetic.md R72). The collision flag of DXYN is computed by the draw loop. -/

namespace Sys2Proof.Machine

/-- A flag's value in VF: 0 or 1 (10_state.md R11). -/
def flagByte (f : Bool) : Byte := if f then 1 else 0

/-- 8XY4: "1 if the unsigned sum overflows 8 bits" (40_arithmetic.md R66). -/
def addFlag (a b : Byte) : Byte := flagByte (decide (255 < a.toNat + b.toNat))

/-- 8XY5 and 8XY7: 1 if the minuend is strictly greater (40_arithmetic.md R67, R69). -/
def greaterFlag (minuend subtrahend : Byte) : Byte := flagByte (decide (subtrahend.toNat < minuend.toNat))

/-- 8XY6: bit 0 of the source (40_arithmetic.md R68). -/
def shrFlag (b : Byte) : Byte := flagByte (b.getLsbD 0)

/-- 8XYE: bit 7 of the source (40_arithmetic.md R70). -/
def shlFlag (b : Byte) : Byte := flagByte (b.getLsbD 7)

/-- FX1E: 1 if `I + V[X]` passes 0xFFF (42_memory_transfer.md R96). -/
def indexFlag (idx : Word) (a : Byte) : Byte := flagByte (decide (0xFFF < idx.toNat + a.toNat))

end Sys2Proof.Machine
end

