-- ==== Sys2Proof/Machine/Arithmetic.lean ====
section
/-! DEFINITION. The arithmetic, logic, shift and random instructions (40_arithmetic.md). None can fault or touches `PC`. -/

namespace Sys2Proof.Machine

/-- 6XNN LDI (40_arithmetic.md R60). -/
def execLdi (x : Nibble) (nn : Byte) (s : State) : Host.Outcome State Fault Refusal :=
  .next (s.setV x nn)

/-- 7XNN ADDI: wraps at 8 bits, VF is not written (40_arithmetic.md R61). -/
def execAddi (x : Nibble) (nn : Byte) (s : State) : Host.Outcome State Fault Refusal :=
  .next (s.setV x (s.V x + nn))

/-- 8XY0 MOV (40_arithmetic.md R62). -/
def execMov (x y : Nibble) (s : State) : Host.Outcome State Fault Refusal :=
  .next (s.setV x (s.V y))

/-- 8XY1 OR: VF is left alone (40_arithmetic.md R63). -/
def execOr (x y : Nibble) (s : State) : Host.Outcome State Fault Refusal :=
  .next (s.setV x (s.V x ||| s.V y))

/-- 8XY2 AND: VF is left alone (40_arithmetic.md R64). -/
def execAnd (x y : Nibble) (s : State) : Host.Outcome State Fault Refusal :=
  .next (s.setV x (s.V x &&& s.V y))

/-- 8XY3 XOR: VF is left alone (40_arithmetic.md R65). -/
def execXor (x y : Nibble) (s : State) : Host.Outcome State Fault Refusal :=
  .next (s.setV x (s.V x ^^^ s.V y))

/-- 8XY4 ADD: VF is the carry (40_arithmetic.md R66). -/
def execAdd (x y : Nibble) (s : State) : Host.Outcome State Fault Refusal :=
  .next (s.setVThenFlag x (s.V x + s.V y) (addFlag (s.V x) (s.V y)))

/-- 8XY5 SUB: VF is `V[X] > V[Y]` (40_arithmetic.md R67). -/
def execSub (x y : Nibble) (s : State) : Host.Outcome State Fault Refusal :=
  .next (s.setVThenFlag x (s.V x - s.V y) (greaterFlag (s.V x) (s.V y)))

/-- 8XY6 SHR: the source is `V[Y]` (40_arithmetic.md R68). -/
def execShr (x y : Nibble) (s : State) : Host.Outcome State Fault Refusal :=
  .next (s.setVThenFlag x (s.V y >>> 1) (shrFlag (s.V y)))

/-- 8XY7 SUBN: VF is `V[Y] > V[X]` (40_arithmetic.md R69). -/
def execSubn (x y : Nibble) (s : State) : Host.Outcome State Fault Refusal :=
  .next (s.setVThenFlag x (s.V y - s.V x) (greaterFlag (s.V y) (s.V x)))

/-- 8XYE SHL: the source is `V[Y]` (40_arithmetic.md R70). -/
def execShl (x y : Nibble) (s : State) : Host.Outcome State Fault Refusal :=
  .next (s.setVThenFlag x (s.V y <<< 1) (shlFlag (s.V y)))

/-- CXNN with the random byte `r` (40_arithmetic.md R71). -/
def rndWith (r : Byte) (x : Nibble) (nn : Byte) (s : State) : State := s.setV x (r &&& nn)

/-- CXNN RND: the random byte is a free value (40_arithmetic.md R71, log 5). -/
def execRnd (x : Nibble) (nn : Byte) (s : State) : Host.Outcome State Fault Refusal :=
  .next (rndWith s.random8 x nn s.nextDraw)

end Sys2Proof.Machine
end

