-- ==== Sys2Proof/Machine/ControlFlow.lean ====
section
/-! DEFINITION. The control-flow instructions (41_control_flow.md). On entry `PC` is already advanced (30_encoding.md R45). -/

namespace Sys2Proof.Machine

/-- 00EE RET: StackUnderflow on an empty stack, checked first; else `PC <- pop(STACK)` (41_control_flow.md R80). -/
def execRet (s : State) : Host.Outcome State Fault Refusal :=
  match s.stack.getLast? with
  | none => .next (s.raise (.stackUnderflow (encode .ret) s.pc0))
  | some a => .next ((s.setStack s.stack.dropLast).setPc a)

/-- 1NNN JP (41_control_flow.md R81). -/
def execJp (nnn : Imm12) (s : State) : Host.Outcome State Fault Refusal :=
  .next (s.setPc (imm16 nnn))

/-- 2NNN CALL: StackOverflow at depth 16, checked first; else push the advanced `PC` and jump (41_control_flow.md R82). -/
def execCall (nnn : Imm12) (s : State) : Host.Outcome State Fault Refusal :=
  if s.stack.length = Config.stackDepth then .next (s.raise (.stackOverflow (encode (.call nnn)) s.pc0))
  else .next ((s.push s.pc).setPc (imm16 nnn))

/-- BNNN JPV0: the 16-bit sum, not reduced (41_control_flow.md R83). -/
def execJpv0 (nnn : Imm12) (s : State) : Host.Outcome State Fault Refusal :=
  .next (s.setPc (imm16 nnn + byte16 (s.V 0)))

/-- 3XNN SEI (41_control_flow.md R84). -/
def execSei (x : Nibble) (nn : Byte) (s : State) : Host.Outcome State Fault Refusal :=
  .next (s.skipIf (s.V x == nn))

/-- 4XNN SNEI (41_control_flow.md R85). -/
def execSnei (x : Nibble) (nn : Byte) (s : State) : Host.Outcome State Fault Refusal :=
  .next (s.skipIf (s.V x != nn))

/-- 5XY0 SE (41_control_flow.md R86). -/
def execSe (x y : Nibble) (s : State) : Host.Outcome State Fault Refusal :=
  .next (s.skipIf (s.V x == s.V y))

/-- 9XY0 SNE (41_control_flow.md R87). -/
def execSne (x y : Nibble) (s : State) : Host.Outcome State Fault Refusal :=
  .next (s.skipIf (s.V x != s.V y))

end Sys2Proof.Machine
end

