-- ==== Sys2Proof/Machine/Drawing.lean ====
section
/-! DEFINITION. The display instructions (43_sprite_drawing.md). The draw loop carries the display and the collision flag. -/

namespace Sys2Proof.Machine

/-- 00E0 CLS (43_sprite_drawing.md R110). -/
def execCls (s : State) : Host.Outcome State Fault Refusal :=
  .next (s.setFb Display.clear)

/-- A set sprite bit meets the pixel `(col, row)`: a set pixel is cleared and the flag set, a clear one is set
(43_sprite_drawing.md R111). -/
def drawPixel (col row : Nat) (acc : Display × Bool) : Display × Bool :=
  if acc.1.isPixelSet col row then (acc.1.setPixel col row false, true)
  else (acc.1.setPixel col row true, acc.2)

/-- Column `c` of the sprite row `b`: clipped at column 64; bit 7 is the leftmost (43_sprite_drawing.md R111). -/
def drawColumn (b : Byte) (ox row : Nat) (acc : Display × Bool) (c : Nat) : Display × Bool :=
  if 64 ≤ ox + c then acc
  else if b.getLsbD (7 - c) then drawPixel (ox + c) row acc
  else acc

/-- Row `r` of the sprite at address `base`: clipped at row 32 (43_sprite_drawing.md R111). -/
def drawRow (m : Memory) (base ox oy : Nat) (acc : Display × Bool) (r : Nat) : Display × Bool :=
  if 32 ≤ oy + r then acc
  else (List.range 8).foldl (drawColumn (m.read (base + r)) ox (oy + r)) acc

/-- The whole sprite of `n` rows, the flag starting at 0 (43_sprite_drawing.md R111). -/
def drawSprite (m : Memory) (base ox oy n : Nat) (d : Display) : Display × Bool :=
  (List.range n).foldl (drawRow m base ox oy) (d, false)

/-- The display and the flag with which a draw's result is written (43_sprite_drawing.md R111). -/
def State.setDrawn (s : State) (r : Display × Bool) : State := (s.setFb r.1).setV 15 (flagByte r.2)

/-- DXYN DRW (43_sprite_drawing.md R111). -/
def execDrw (x y n : Nibble) (s : State) : Host.Outcome State Fault Refusal :=
  .next (s.setDrawn (drawSprite s.mem s.idx.toNat (s.originCol x) (s.originRow y) n.toNat s.fb))

end Sys2Proof.Machine
end

