-- ==== Sys2Proof/Machine/Keys.lean ====
section
/-! DEFINITION. The key-input instructions (44_key_input.md). The Input Source's answers are free values (log 5). -/

namespace Sys2Proof.Machine

/-- EX9E SKP (44_key_input.md R120). -/
def execSkp (x : Nibble) (s : State) : Host.Outcome State Fault Refusal :=
  .next (s.nextDraw.skipIf (s.keyHeld (s.lowNibble x)))

/-- EXA1 SKNP (44_key_input.md R121). -/
def execSknp (x : Nibble) (s : State) : Host.Outcome State Fault Refusal :=
  .next (s.nextDraw.skipIf (!s.keyHeld (s.lowNibble x)))

/-- FX0A WAITK: the wait begins; `PC` is already advanced and nothing else changes (44_key_input.md R122). -/
def execWaitk (x : Nibble) (s : State) : Host.Outcome State Fault Refusal :=
  .next (s.setMode (.waitKey x))

/-- The end of the wait, when `KeyEvent()` returns `k`; with no event yet nothing changes (44_key_input.md R122). -/
def State.deliverKey (s : State) (x : Nibble) (event : Option Nibble) : State :=
  match event with
  | none => s
  | some k => (s.setV x (keyByte k)).setMode .run

end Sys2Proof.Machine
end

