-- ==== Sys2Proof/Machine/MemoryTransfer.lean ====
section
/-! DEFINITION. The index-register and memory-transfer instructions (42_memory_transfer.md). None can fault; `I` is the base
and is changed only by ANNN, FX1E and FX29 (R99). -/

namespace Sys2Proof.Machine

/-- ANNN LDIX (42_memory_transfer.md R95). -/
def execLdix (nnn : Imm12) (s : State) : Host.Outcome State Fault Refusal :=
  .next (s.setIdx (imm16 nnn))

/-- FX1E ADDIX: the sum modulo 4096, VF last (42_memory_transfer.md R96). -/
def execAddix (x : Nibble) (s : State) : Host.Outcome State Fault Refusal :=
  .next ((s.setIdx (BitVec.ofNat 16 ((s.idx.toNat + (s.V x).toNat) % 4096))).setV 15 (indexFlag s.idx (s.V x)))

/-- FX29 FONT: the address of glyph `V[X] & 0xF` (42_memory_transfer.md R97). -/
def execFont (x : Nibble) (s : State) : Host.Outcome State Fault Refusal :=
  .next (s.setIdx (glyphAddr (s.lowNibble x)))

/-- The decimal hundreds, tens and units of a byte (42_memory_transfer.md R98). -/
def bcdDigits (a : Byte) : List Byte := [a / 100, (a / 10) % 10, a % 10]

/-- FX33 BCD: three bytes from `I` on (42_memory_transfer.md R98). -/
def execBcd (x : Nibble) (s : State) : Host.Outcome State Fault Refusal :=
  .next (s.storeBytes s.idx.toNat (bcdDigits (s.V x)))

/-- FX55 STM: `V[0]` to `V[X]` from `I` on (42_memory_transfer.md R100). -/
def execStm (x : Nibble) (s : State) : Host.Outcome State Fault Refusal :=
  .next (s.storeBytes s.idx.toNat ((blockRegs x).map s.V))

/-- FX65 LDM: memory from `I` on into `V[0]` to `V[X]` (42_memory_transfer.md R101). -/
def execLdm (x : Nibble) (s : State) : Host.Outcome State Fault Refusal :=
  .next (s.loadRegs s.idx.toNat (blockRegs x))

end Sys2Proof.Machine
end

