-- ==== Sys2Proof/Machine/Timers.lean ====
section
/-! DEFINITION. The timer-access instructions (45_timer_access.md), the two tick steps (60_exceptions.md R153, R154) and the
ticks that fall into the gap after an action of the execute loop (R156). -/

namespace Sys2Proof.Machine

/-- FX07 GETDT (45_timer_access.md R130). -/
def execGetdt (x : Nibble) (s : State) : Host.Outcome State Fault Refusal :=
  .next (s.setV x s.dt)

/-- FX15 SETDT (45_timer_access.md R131). -/
def execSetdt (x : Nibble) (s : State) : Host.Outcome State Fault Refusal :=
  .next (s.setDt (s.V x))

/-- FX18 SETST: `TONE` is not touched (45_timer_access.md R132). -/
def execSetst (x : Nibble) (s : State) : Host.Outcome State Fault Refusal :=
  .next (s.setSt (s.V x))

/-- A counter's tick: one less when greater than 0 (60_exceptions.md R153, R154). -/
def countDown (b : Byte) : Byte := if b = 0 then 0 else b - 1

/-- The tone a sound tick asserts: play when `ST > 0` before the decrement, else stop (60_exceptions.md R154). -/
def toneFor (st : Byte) : Tone := if st = 0 then .off else .on

/-- The delay tick step, taken while `MODE ≠ HALTED` (60_exceptions.md R153, R146). -/
def State.delayTick (s : State) : State :=
  if s.mode = .halted then s else s.setDt (countDown s.dt)

/-- The sound tick step, taken while `MODE ≠ HALTED` (60_exceptions.md R154, R146). -/
def State.soundTick (s : State) : State :=
  if s.mode = .halted then s else (s.setSt (countDown s.st)).setTone (toneFor s.st)

/-- `k` ticks of a counter. A counter at 0 stays there whatever `k` is. -/
def countDownBy (b : Byte) : Nat → Byte
  | 0 => b
  | k + 1 => countDownBy (countDown b) k

/-- `DT` after `k` delay ticks; 0 at once when it is 0, so that an idle timer needs no count. -/
def delayAfter (dt : Byte) (k : Nat) : Byte := if dt = 0 then 0 else countDownBy dt k

/-- `ST` and `TONE` after `k` sound ticks, tick by tick. -/
def soundBy (st : Byte) (tone : Tone) : Nat → Byte × Tone
  | 0 => (st, tone)
  | k + 1 => soundBy (countDown st) (toneFor st) k

/-- `ST` and `TONE` after `k` sound ticks; unchanged at once when `ST` is 0 and the tone off. -/
def soundAfter (st : Byte) (tone : Tone) (k : Nat) : Byte × Tone :=
  if st = 0 ∧ tone = .off then (0, .off) else soundBy st tone k

/-- The gap after an action of the execute loop: `d` delay ticks and `n` sound ticks, none in `HALTED` (60_exceptions.md
R156, R146). The two kinds touch different fields, so their order among each other does not matter. -/
def State.ticks (s : State) (d n : Nat) : State :=
  if s.mode = .halted then s
  else
    ((s.setDt (delayAfter s.dt d)).setSt (soundAfter s.st s.tone n).1).setTone (soundAfter s.st s.tone n).2

/-- The gap with the numbers of ticks as free values (60_exceptions.md R156, log 4, 5); a halted engine has none (R146). -/
def State.tickGap (s : State) : State :=
  if s.mode = .halted then s
  else s.nextDraw.ticks (Config.delayTicks s.draws) (Config.soundTicks s.draws)

end Sys2Proof.Machine
end

