-- ==== Sys2Proof/Machine/Cycle.lean ====
section
/-! DEFINITION. The actions of the execute loop: the instruction step (30_encoding.md R45) and the key wait
(44_key_input.md R122), each followed by a gap in which the tick agents step (60_exceptions.md R156). -/

namespace Sys2Proof.Machine

/-- An outcome with the gap's ticks after it (60_exceptions.md R156, log 4). -/
def afterTicks : Host.Outcome State Fault Refusal → Host.Outcome State Fault Refusal
  | .next s => .next s.tickGap
  | .fault r => .fault r
  | .refused r => .refused r

/-- The instruction step: read, advance, decode, execute; a word that decodes to nothing raises DecodeFailure
(30_encoding.md R45, 60_exceptions.md R141). -/
def instructionStep (s : State) : Host.Outcome State Fault Refusal :=
  match decode s.fetchWord with
  | .ok i => exec i s.advancePc
  | .error _ => .next (s.advancePc.raise (.decodeFailure s.fetchWord s.pc))

/-- One look at the key wait: the event, if it has come (44_key_input.md R122). -/
def keyWaitStep (x : Nibble) (s : State) : Host.Outcome State Fault Refusal :=
  .next (s.nextDraw.deliverKey x s.keyEvent)

end Sys2Proof.Machine
end

