-- ==== Sys2Proof/Machine/Step.lean ====
section
/-! DEFINITION. One step of the machine, and the placing of a word where the next step fetches it. -/

namespace Sys2Proof.Machine

/-- One step (10_state.md R18): in RUN an instruction step, in WAIT_KEY a look at the key wait, each with the ticks of the
gap after it; in HALTED no agent steps (60_exceptions.md R146). -/
def step (s : State) : Host.Outcome State Fault Refusal :=
  match s.mode with
  | .run => afterTicks (instructionStep s)
  | .waitKey x => afterTicks (keyWaitStep x s)
  | .halted => .fault (.halted s.fault)

/-- `s` with the instruction whose bits are `w` (numbered as spec/opcode_table.json numbers them, `nbits` of them, the rest
0) stored where the next step fetches. -/
def State.withFetchWord (s : State) (nbits w : Nat) : State :=
  s.placeWord (BitVec.ofNat 16 (w % 2 ^ nbits))

end Sys2Proof.Machine
end

