-- ==== Sys2Proof/Safety.lean ====
section
/-! DEFINITION. What counts as a sound state and as a settled run, in the terms claims use. -/

namespace Sys2Proof.Machine

/-- The invariant every step keeps: memory is canonical, the stack holds at most 16 addresses (10_state.md R15), `I` is in
0x000 to 0xFFF (R14), and a fault is recorded exactly when the engine has halted (R18, R19). -/
structure State.Inv (s : State) : Prop where
  memWf : s.mem.wf
  stackBound : s.stack.length ≤ Config.stackDepth
  idxBound : s.idx.toNat < 4096
  faultHalts : s.fault.isSome = true ↔ s.mode = .halted

/-- A program has settled: `MODE = RUN` and `PC` is the address of a `1NNN` word whose `NNN` is that address
(70_reset_and_hazards.md R175). -/
def State.Settled (s : State) : Prop :=
  s.mode = .run ∧ ∃ nnn : Imm12, s.pc = nnn.setWidth 16 ∧ decode s.fetchWord = .ok (.jp nnn)

/-- The sprite's bit that falls on the pixel `(col, row)` of the grid, false where the sprite does not reach: row `row - oy`
of the `n` rows at `base`, bit 7 leftmost (43_sprite_drawing.md R111). -/
def spriteBit (m : Memory) (base ox oy n col row : Nat) : Bool :=
  decide (ox ≤ col ∧ col < ox + 8 ∧ oy ≤ row ∧ row < oy + n) &&
    (m.read (base + (row - oy))).getLsbD (7 - (col - ox))

end Sys2Proof.Machine
end

