-- ==== Sys2Proof/Certificates/Slice0/Obligations.lean ====
section
/-! DEFINITION. The statements for the provers, from the numbered rules of spec/. `exec` runs on the state after the fetch:
`PC` already holds `(PC0 + 2) mod 65536` (30_encoding.md R45), so an instruction that leaves `pc` alone goes on at `PC0 + 2`. -/

namespace Sys2Proof.Machine

/-- The word `w` is the instruction `i`, read and written. -/
def Encodes (w : Word) (i : Instr) : Prop := decode w = .ok i ∧ encode i = w

/-- `i` completes, writes `b` to `V[x]` and changes nothing else. -/
def WritesReg (i : Instr) (s : State) (x : Nibble) (b : Byte) : Prop :=
  ∃ t, exec i s = .next t ∧ t.V x = b ∧ (∀ z, z ≠ x → t.V z = s.V z) ∧ t = { s with regs := t.regs }

/-- `i` completes, writes `b` to `V[x]`, then `f` to VF, and changes nothing else: with `x = 15` the flag remains
(10_state.md R11). -/
def WritesRegThenFlag (i : Instr) (s : State) (x : Nibble) (b f : Byte) : Prop :=
  ∃ t, exec i s = .next t ∧ t.V 15 = f ∧ (x ≠ 15 → t.V x = b) ∧
    (∀ z, z ≠ x → z ≠ 15 → t.V z = s.V z) ∧ t = { s with regs := t.regs }

/-- `i` completes, adds 2 to `PC` when `taken`, and changes nothing else. -/
def Skips (i : Instr) (s : State) (taken : Prop) : Prop :=
  (taken → exec i s = .next { s with pc := BitVec.ofNat 16 ((s.pc.toNat + 2) % 65536) }) ∧ (¬ taken → exec i s = .next s)

/-- The registers an instruction may write in `exec` (10_state.md R10, the column writes; FX0A writes `V[X]` only when its
wait ends). -/
def mayWriteReg (i : Instr) (z : Nibble) : Prop :=
  match i with
  | .ldi x _ | .addi x _ | .rnd x _ | .getdt x => z = x
  | .mov x _ | .or x _ | .and x _ | .xor x _ => z = x
  | .add x _ | .sub x _ | .subn x _ | .shr x _ | .shl x _ => z = x ∨ z = 15
  | .drw _ _ _ | .addix _ => z = 15
  | .ldm x => z.toNat ≤ x.toNat
  | .cls | .ret | .jp _ | .call _ | .sei _ _ | .snei _ _ | .se _ _ | .sne _ _ => False
  | .ldix _ | .jpv0 _ | .skp _ | .sknp _ | .setdt _ | .setst _ | .waitk _ | .font _ | .bcd _ | .stm _ => False

/-- The instructions that write a flag into VF (10_state.md R11). -/
def writesFlag (i : Instr) : Prop :=
  match i with
  | .add _ _ | .sub _ _ | .subn _ _ | .shr _ _ | .shl _ _ | .drw _ _ _ | .addix _ => True
  | .cls | .ret | .jp _ | .call _ | .sei _ _ | .snei _ _ | .se _ _ | .sne _ _ | .ldi _ _ | .addi _ _ => False
  | .mov _ _ | .or _ _ | .and _ _ | .xor _ _ | .ldix _ | .jpv0 _ | .rnd _ _ | .skp _ | .sknp _ | .getdt _ => False
  | .setdt _ | .setst _ | .waitk _ | .font _ | .bcd _ | .stm _ | .ldm _ => False

end Sys2Proof.Machine

open Sys2Proof Sys2Proof.Machine

/-! Decoding and encoding. -/

/-- Words written out from the patterns of 30_encoding.md R50, one of each group, and the instance of
95_test_vectors.md S1. -/
def Obligations.SampleWordsDecode : Prop :=
  decode 0x00E0 = .ok .cls ∧ decode 0x00EE = .ok .ret ∧ decode 0x220A = .ok (.call 0x20A) ∧
  decode 0x5230 = .ok (.se 2 3) ∧ decode 0x6A2C = .ok (.ldi 10 0x2C) ∧ decode 0x801E = .ok (.shl 0 1) ∧
  decode 0x8237 = .ok (.subn 2 3) ∧ decode 0x9230 = .ok (.sne 2 3) ∧ decode 0xA300 = .ok (.ldix 0x300) ∧
  decode 0xC30F = .ok (.rnd 3 0x0F) ∧ decode 0xD235 = .ok (.drw 2 3 5) ∧ decode 0xE4A1 = .ok (.sknp 4) ∧
  decode 0xF30A = .ok (.waitk 3) ∧ decode 0xF265 = .ok (.ldm 2) ∧
  decode 0x0000 = .error (.illegalGroup0 0x0000) ∧ decode 0x5121 = .error (.illegalGroup5 0x5121) ∧
  decode 0xF10B = .error (.illegalGroupF 0xF10B)

/-- Decoding the word of any instruction, with every operand at every value, gives the instruction back (30_encoding.md R47,
R50, R51). -/
def Obligations.DecodeOfEncode : Prop := ∀ i : Instr, decode (encode i) = .ok i

/-- Each word has one meaning: a word that decodes is the word of its instruction, no bit dropped (30_encoding.md R50). -/
def Obligations.EncodeOfDecode : Prop := ∀ (w : Word) (i : Instr), decode w = .ok i → encode i = w

/-- The decoder of 30_encoding.md R51 and the mask and match table of R50 agree: row `m` selects `w` exactly when `w` decodes
to an instruction of that row; so no two rows select one word. -/
def Obligations.DecodeFollowsOpcodeTable : Prop :=
  ∀ (w : Word) (m : Mnemonic), w &&& m.mask = m.matchBits ↔ ∃ i, decode w = .ok i ∧ i.mnemonic = m

/-- The illegal words are exactly the six groups of 30_encoding.md R52. -/
def Obligations.IllegalWordsAreTheSixGroups : Prop :=
  ∀ w : Word, (∃ e, decode w = .error e) ↔
    (w.toNat / 4096 = 0x0 ∧ w ≠ 0x00E0 ∧ w ≠ 0x00EE) ∨
    (w.toNat / 4096 = 0x5 ∧ w.toNat % 16 ≠ 0) ∨
    (w.toNat / 4096 = 0x8 ∧ w.toNat % 16 ∈ [0x8, 0x9, 0xA, 0xB, 0xC, 0xD, 0xF]) ∨
    (w.toNat / 4096 = 0x9 ∧ w.toNat % 16 ≠ 0) ∨
    (w.toNat / 4096 = 0xE ∧ w.toNat % 256 ≠ 0x9E ∧ w.toNat % 256 ≠ 0xA1) ∨
    (w.toNat / 4096 = 0xF ∧ w.toNat % 256 ∉ [0x07, 0x0A, 0x15, 0x18, 0x1E, 0x29, 0x33, 0x55, 0x65])

/-- A source line whose operands fit assembles to a word that decodes to the instruction with the line's mnemonic and the
line's operands, in the order of 30_encoding.md R55 (the first is `X` or `NNN`, the second `Y` or `NN`, the third `N`); another
line assembles to nothing; and every instruction is assembled from the line of its mnemonic and operands. The mnemonics and the
syntax are the spec's own decision D15 (92_eei_decisions.md). -/
def Obligations.AssembledLineDecodes : Prop :=
  (∀ l : SourceLine, l.wellFormed = true →
    ∃ w i, l.assemble = some w ∧ decode w = .ok i ∧ i.mnemonic = l.mnemonic ∧ i.operands = l.operands) ∧
  (∀ l : SourceLine, l.wellFormed = false → l.assemble = none) ∧
  (∀ i : Instr, (SourceLine.mk i.mnemonic i.operands).wellFormed = true ∧
    (SourceLine.mk i.mnemonic i.operands).assemble = some (encode i))

/-! The step. -/

/-- In RUN, when the two bytes at `PC` and `PC + 1` (high byte first, each modulo 4096) decode to `i`, the step is `exec i` on
the state with `PC` advanced by 2 modulo 65536, and then the gap's ticks (30_encoding.md R45, 60_exceptions.md R156; the ticks
after the action are the model's form of the interleaving, log 4). -/
def Obligations.StepRunsDecodedInstruction : Prop :=
  ∀ (s : State) (i : Instr), s.mode = .run →
    decode (s.memRead s.pc.toNat ++ s.memRead (s.pc.toNat + 1)) = .ok i →
    step s = match exec i { s with pc := BitVec.ofNat 16 ((s.pc.toNat + 2) % 65536) } with
      | .next t => .next t.tickGap
      | .fault r => .fault r
      | .refused r => .refused r

/-- In RUN a word that decodes to nothing halts the engine with DecodeFailure, the word and the address it was fetched from;
nothing changes but `PC`, which is advanced, `MODE` and `FAULT`, and no tick follows. The record's form and the halted state
are the spec's own decision D4 of 92_eei_decisions.md. -/
def Obligations.IllegalWordHalts : Prop :=
  ∀ (s : State) (e : DecodeError), s.mode = .run → s.fault = none →
    decode (s.memRead s.pc.toNat ++ s.memRead (s.pc.toNat + 1)) = .error e →
    step s = .next { s with
      pc := BitVec.ofNat 16 ((s.pc.toNat + 2) % 65536)
      mode := .halted
      fault := some (.decodeFailure (s.memRead s.pc.toNat ++ s.memRead (s.pc.toNat + 1)) s.pc) }

/-- In HALTED no agent steps: the step stops with the fault record (92_eei_decisions.md D18; the stop is the model's form of
"stuck", log 7). Nothing else stops: every other state has a next state, and every instruction, with every operand, in every
state, answers one (60_exceptions.md R140). -/
def Obligations.OnlyHaltedEngineStops : Prop :=
  (∀ s : State, s.mode = .halted → step s = .fault (.halted s.fault)) ∧
  (∀ s : State, s.mode ≠ .halted → ∃ t, step s = .next t) ∧
  (∀ (i : Instr) (s : State), ∃ t, exec i s = .next t)

/-- In WAIT_KEY the step takes no instruction: with no key event nothing changes but the ticks, with the event `k` the register
`V[X]` becomes `k` zero-extended and `MODE` becomes RUN (44_key_input.md R122). The event is a free value (log 5). -/
def Obligations.KeyWaitEndsWithKeyEvent : Prop :=
  ∀ (s : State) (x : Nibble), s.mode = .waitKey x →
    ∃ u, step s = .next u.tickGap ∧
      match Config.keyEvent s.draws with
      | none => u = { s with draws := s.draws + 1 }
      | some k => u.V x = BitVec.ofNat 8 k.toNat ∧ (∀ z, z ≠ x → u.V z = s.V z) ∧
          u = { s with regs := u.regs, mode := .run, draws := s.draws + 1 }

/-! Timers. -/

/-- The delay tick step, while `MODE ≠ HALTED`: down by 1 when greater than 0, else nothing; it touches nothing but `DT`
(60_exceptions.md R153). In HALTED none is taken (92_eei_decisions.md D18). -/
def Obligations.DelayTickCountsDown : Prop :=
  ∀ s : State,
    (s.mode ≠ .halted → 0 < s.dt.toNat → s.delayTick = { s with dt := BitVec.ofNat 8 (s.dt.toNat - 1) }) ∧
    (s.mode ≠ .halted → s.dt.toNat = 0 → s.delayTick = s) ∧
    (s.mode = .halted → s.delayTick = s)

/-- The sound tick step, while `MODE ≠ HALTED`: `ST` greater than 0 goes down by 1 and the tone is on, else the tone is off; it
touches nothing but `ST` and `TONE` (60_exceptions.md R154). In HALTED none is taken (92_eei_decisions.md D18). -/
def Obligations.SoundTickDrivesTone : Prop :=
  ∀ s : State,
    (s.mode ≠ .halted → 0 < s.st.toNat →
      s.soundTick = { s with st := BitVec.ofNat 8 (s.st.toNat - 1), tone := .on }) ∧
    (s.mode ≠ .halted → s.st.toNat = 0 → s.soundTick = { s with tone := .off }) ∧
    (s.mode = .halted → s.soundTick = s)

/-- After `j` delay ticks `DT` is `max(n − j, 0)` and nothing else has changed (60_exceptions.md R157). -/
def Obligations.DelayTimerReachesZeroAndStays : Prop :=
  ∀ (s : State) (j : Nat), s.mode ≠ .halted →
    State.delayTick^[j] s = { s with dt := BitVec.ofNat 8 (s.dt.toNat - j) }

/-- With `ST = n`, the `j`-th sound tick leaves `ST = max(n − j, 0)` and the tone on exactly when `j ≤ n`: a tone of `n` tick
periods (60_exceptions.md R154). -/
def Obligations.ToneLastsSoundTimerTicks : Prop :=
  ∀ (s : State) (j : Nat), s.mode ≠ .halted → 1 ≤ j →
    State.soundTick^[j] s =
      { s with st := BitVec.ofNat 8 (s.st.toNat - j), tone := if j ≤ s.st.toNat then .on else .off }

/-- The gap after an action of the execute loop is a whole number of delay tick steps and a whole number of sound tick steps
(60_exceptions.md R156), for all numbers; which numbers is free (log 4, 5); a halted engine has no gap. -/
def Obligations.GapIsWholeTickSteps : Prop :=
  (∀ (s : State) (d n : Nat), s.ticks d n = State.soundTick^[n] (State.delayTick^[d] s)) ∧
  (∀ (s : State) (d n : Nat), s.ticks d n = State.delayTick^[d] (State.soundTick^[n] s)) ∧
  (∀ s : State, s.mode ≠ .halted →
    s.tickGap = { s with draws := s.draws + 1 }.ticks (Config.delayTicks s.draws) (Config.soundTicks s.draws)) ∧
  (∀ s : State, s.mode = .halted → s.tickGap = s)

/-- A timer never increases but by its own instruction: a step that does not run FX15 does not raise `DT`, one that does not run
FX18 does not raise `ST` (60_exceptions.md R157), whatever ticks fall. -/
def Obligations.TimersRiseOnlyByTheirInstruction : Prop :=
  ∀ s t : State, step s = .next t →
    ((s.mode = .run → ∀ x, decode s.fetchWord ≠ .ok (.setdt x)) → t.dt.toNat ≤ s.dt.toNat) ∧
    ((s.mode = .run → ∀ x, decode s.fetchWord ≠ .ok (.setst x)) → t.st.toNat ≤ s.st.toNat)

/-! Reset and load. -/

/-- The state after reset, for all OPEN parameters (`FONT`, `FB_RESET`, `IPS`: 00_scope.md R4): the values of 10_state.md R24,
with `FONT` at 0x050 to 0x09F and `FB_RESET` on the display. That the tone is off and the fault record empty are the spec's own
decisions D13 and D4 (92_eei_decisions.md). `State.reset` is the case of the spec's defaults (log 1, 2). -/
def Obligations.ResetValues : Prop :=
  (∀ p : Config.Parameters,
    let s := State.resetWith p
    (∀ z, s.V z = 0) ∧ s.idx = 0 ∧ s.pc = 0x0200 ∧ s.stack = [] ∧ s.dt = 0 ∧ s.st = 0 ∧ s.mode = .run ∧
    s.fault = none ∧ s.tone = .off ∧ s.fb.rows = p.fbReset ∧
    (∀ a, a < 0x050 → s.memRead a = 0) ∧ (∀ a, 0x0A0 ≤ a → a < 4096 → s.memRead a = 0) ∧
    (∀ j (h : j < 80), s.memRead (0x050 + j) = p.font[j])) ∧
  State.reset = State.resetWith Config.defaults

/-- Loaded into the reset state, for all OPEN parameters: a program image of at most 3584 bytes stands at 0x200 up, the rest of
memory and of the state is as at reset (20_memory.md R39); a longer one writes nothing and halts the engine with LoadError (the
spec's own decision D17 of 92_eei_decisions.md). -/
def Obligations.LoadPlacesImageOrFails : Prop :=
  ∀ (p : Config.Parameters) (image : List Byte),
    let s := State.resetWith p
    let t := s.load image
    (image.length ≤ 3584 →
      (∀ j (h : j < image.length), t.memRead (0x200 + j) = image[j]) ∧
      (∀ a, a < 4096 → (a < 0x200 ∨ 0x200 + image.length ≤ a) → t.memRead a = s.memRead a) ∧
      t = { s with mem := t.mem }) ∧
    (3584 < image.length → t = { s with fault := some .loadError, mode := .halted })

/-- The invariant holds at reset: memory is canonical, the stack fits, `I` is in range, and no fault is recorded. -/
def Obligations.ResetMeetsInvariant : Prop := State.reset.Inv

/-- The invariant holds when the run of any image starts, whatever the OPEN parameters are, an image that is too long included. -/
def Obligations.EveryLoadMeetsInvariant : Prop :=
  ∀ (p : Config.Parameters) (image : List Byte), (State.boot p image).Inv

/-- Every step keeps the invariant, from every state that meets it: memory stays canonical, the stack holds at most 16 addresses
(10_state.md R15), `I` stays in 0x000 to 0xFFF (R14), and a fault is recorded exactly when the engine has halted (R18, R19). -/
def Obligations.StepKeepsInvariant : Prop := ∀ s t : State, s.Inv → step s = .next t → t.Inv

/-! Memory. -/

/-- `MemWrite(addr, 1, v)` sets the byte at `addr mod 4096` and changes nothing else (20_memory.md R32). -/
def Obligations.MemWriteSetsOneByte : Prop :=
  ∀ (s : State) (addr : Nat) (b : Byte),
    (s.mem.wf → (s.memWrite addr b).memRead addr = b) ∧
    (∀ a, a % 4096 ≠ addr % 4096 → (s.memWrite addr b).memRead a = s.memRead a) ∧
    s.memWrite addr b = { s with mem := (s.memWrite addr b).mem }

/-- Memories in canonical form that read the same at every address are the same data. -/
def Obligations.CanonicalMemoriesAreEqual : Prop :=
  ∀ m n : Memory, m.wf → n.wf → (∀ a, a < 4096 → m.read a = n.read a) → m = n

/-- A byte stored at any address is seen by the very next fetch (20_memory.md R43): the word fetched has it in its high half
when it went to `PC`, in its low half when it went to `PC + 1`. -/
def Obligations.FetchSeesStore : Prop :=
  ∀ (s : State) (addr : Nat) (b : Byte), s.mem.wf →
    (s.memWrite addr b).fetchWord =
      (if s.pc.toNat % 4096 = addr % 4096 then b else s.memRead s.pc.toNat) ++
      (if (s.pc.toNat + 1) % 4096 = addr % 4096 then b else s.memRead (s.pc.toNat + 1))

/-! Arithmetic, logic, shifts, random. -/

/-- 6XNN LDI and 8XY0 MOV: `V[X]` becomes `NN`, or `V[Y]`; VF is written only as `V[X]` (40_arithmetic.md R60, R62). -/
def Obligations.MovesWriteOneRegister : Prop :=
  ∀ (x y : Nibble) (nn : Byte) (s : State),
    (Encodes (0x6#4 ++ x ++ nn) (.ldi x nn) ∧ WritesReg (.ldi x nn) s x nn) ∧
    (Encodes (0x8#4 ++ x ++ y ++ 0x0#4) (.mov x y) ∧ WritesReg (.mov x y) s x (s.V y))

/-- 7XNN ADDI wraps modulo 256 and writes no flag, VF being written only as `V[X]` (40_arithmetic.md R61). -/
def Obligations.AddiWrapsWithoutFlag : Prop :=
  ∀ (x : Nibble) (nn : Byte) (s : State),
    Encodes (0x7#4 ++ x ++ nn) (.addi x nn) ∧
    WritesReg (.addi x nn) s x (BitVec.ofNat 8 (((s.V x).toNat + nn.toNat) % 256))

/-- 8XY1 OR, 8XY2 AND, 8XY3 XOR, bit by bit; VF is written only as `V[X]`; with equal operands OR and AND leave `V[X]`, XOR
gives 0 (40_arithmetic.md R63, R64, R65). -/
def Obligations.LogicLeavesFlagAlone : Prop :=
  ∀ (x y : Nibble) (s : State),
    (Encodes (0x8#4 ++ x ++ y ++ 0x1#4) (.or x y) ∧
      ∃ b, WritesReg (.or x y) s x b ∧ (∀ k, k < 8 → b.getLsbD k = ((s.V x).getLsbD k || (s.V y).getLsbD k)) ∧
        (s.V x = s.V y → b = s.V x)) ∧
    (Encodes (0x8#4 ++ x ++ y ++ 0x2#4) (.and x y) ∧
      ∃ b, WritesReg (.and x y) s x b ∧ (∀ k, k < 8 → b.getLsbD k = ((s.V x).getLsbD k && (s.V y).getLsbD k)) ∧
        (s.V x = s.V y → b = s.V x)) ∧
    (Encodes (0x8#4 ++ x ++ y ++ 0x3#4) (.xor x y) ∧
      ∃ b, WritesReg (.xor x y) s x b ∧ (∀ k, k < 8 → b.getLsbD k = ((s.V x).getLsbD k ^^ (s.V y).getLsbD k)) ∧
        (s.V x = s.V y → b = 0))

/-- 8XY4 ADD: the sum modulo 256, VF 1 when the sum passes 255, else 0, VF last (40_arithmetic.md R66). -/
def Obligations.AddWritesSumThenCarry : Prop :=
  ∀ (x y : Nibble) (s : State),
    Encodes (0x8#4 ++ x ++ y ++ 0x4#4) (.add x y) ∧
    WritesRegThenFlag (.add x y) s x (BitVec.ofNat 8 (((s.V x).toNat + (s.V y).toNat) % 256))
      (if (s.V x).toNat + (s.V y).toNat > 255 then 1 else 0)

/-- 8XY5 SUB: the difference modulo 256, VF 1 when `V[X]` is strictly greater, else 0, VF last (40_arithmetic.md R67). -/
def Obligations.SubWritesDifferenceThenStrictFlag : Prop :=
  ∀ (x y : Nibble) (s : State),
    Encodes (0x8#4 ++ x ++ y ++ 0x5#4) (.sub x y) ∧
    WritesRegThenFlag (.sub x y) s x (BitVec.ofNat 8 (((s.V x).toNat + 256 - (s.V y).toNat) % 256))
      (if (s.V x).toNat > (s.V y).toNat then 1 else 0)

/-- 8XY7 SUBN: `V[Y] − V[X]` modulo 256, VF 1 when `V[Y]` is strictly greater, else 0, VF last (40_arithmetic.md §4; that VF
is 0 otherwise is the spec's own reading of the row). -/
def Obligations.SubnWritesDifferenceThenStrictFlag : Prop :=
  ∀ (x y : Nibble) (s : State),
    Encodes (0x8#4 ++ x ++ y ++ 0x7#4) (.subn x y) ∧
    WritesRegThenFlag (.subn x y) s x (BitVec.ofNat 8 (((s.V y).toNat + 256 - (s.V x).toNat) % 256))
      (if (s.V y).toNat > (s.V x).toNat then 1 else 0)

/-- 8XY6 SHR: `V[Y]` halved into `V[X]`, VF the bit shifted out, VF last; `V[Y]` itself stays unless it is `V[X]` or VF
(40_arithmetic.md R68). -/
def Obligations.ShrShiftsSourceRight : Prop :=
  ∀ (x y : Nibble) (s : State),
    Encodes (0x8#4 ++ x ++ y ++ 0x6#4) (.shr x y) ∧
    WritesRegThenFlag (.shr x y) s x (BitVec.ofNat 8 ((s.V y).toNat / 2)) (BitVec.ofNat 8 ((s.V y).toNat % 2))

/-- 8XYE SHL: `V[Y]` doubled modulo 256 into `V[X]`, VF its old bit 7, VF last (40_arithmetic.md R70). -/
def Obligations.ShlShiftsSourceLeft : Prop :=
  ∀ (x y : Nibble) (s : State),
    Encodes (0x8#4 ++ x ++ y ++ 0xE#4) (.shl x y) ∧
    WritesRegThenFlag (.shl x y) s x (BitVec.ofNat 8 ((2 * (s.V y).toNat) % 256)) (BitVec.ofNat 8 ((s.V y).toNat / 128))

/-- CXNN RND: `V[X]` becomes the random byte AND `NN`, so it has no bit that `NN` lacks; nothing else of the spec's state
changes (40_arithmetic.md R71). The byte is a free value, taken at the model's counter `draws` (log 5). -/
def Obligations.RndMasksRandomByte : Prop :=
  ∀ (x : Nibble) (nn : Byte) (s : State),
    Encodes (0xC#4 ++ x ++ nn) (.rnd x nn) ∧
    ∃ t, exec (.rnd x nn) s = .next t ∧ t.V x = Config.random8 s.draws &&& nn ∧ t.V x &&& ~~~nn = 0 ∧
      (∀ z, z ≠ x → t.V z = s.V z) ∧ t = { s with regs := t.regs, draws := s.draws + 1 }

/-! Control flow. -/

/-- 00EE RET with a return address on the stack: the newest is popped into `PC`, nothing else changes (41_control_flow.md
R80). -/
def Obligations.RetPopsNewestAddress : Prop :=
  Encodes 0x00EE .ret ∧
  ∀ (s : State) (older : List Word) (a : Word), s.stack = older ++ [a] →
    exec .ret s = .next { s with stack := older, pc := a }

/-- 2NNN CALL below depth 16: the advanced `PC` is pushed, `PC` becomes `NNN`, nothing else changes (41_control_flow.md R82). -/
def Obligations.CallPushesAdvancedPc : Prop :=
  ∀ (nnn : Imm12) (s : State),
    Encodes (0x2#4 ++ nnn) (.call nnn) ∧
    (s.stack.length ≠ 16 →
      exec (.call nnn) s = .next { s with stack := s.stack ++ [s.pc], pc := BitVec.ofNat 16 nnn.toNat })

/-- RET on an empty stack and CALL at depth 16 halt the engine: the record names the word and `PC0` (two before the advanced
`PC`), and nothing but `MODE` and `FAULT` changes. The record's form, the halted state and the depth of exactly 16 are the
spec's own decisions D4 and D5 (92_eei_decisions.md). -/
def Obligations.StackFaultsHaltPrecisely : Prop :=
  (∀ s : State, s.fault = none → s.stack = [] →
    exec .ret s = .next { s with fault := some (.stackUnderflow 0x00EE (s.pc - 2)), mode := .halted }) ∧
  (∀ (nnn : Imm12) (s : State), s.fault = none → s.stack.length = 16 →
    exec (.call nnn) s = .next { s with fault := some (.stackOverflow (0x2#4 ++ nnn) (s.pc - 2)), mode := .halted })

/-- 2NNN and then 00EE, whatever ran between as long as it left the stack as 2NNN did: `PC` is back after the 2NNN and the stack
is as before it (41_control_flow.md R80, 95_test_vectors.md S7). -/
def Obligations.CallThenRetReturns : Prop :=
  ∀ (nnn : Imm12) (s t u : State), s.stack.length ≠ 16 → exec (.call nnn) s = .next t → u.stack = t.stack →
    ∃ v, exec .ret u = .next v ∧ v.pc = s.pc ∧ v.stack = s.stack

/-- 1NNN JP (41_control_flow.md R81). -/
def Obligations.JpLoadsTarget : Prop :=
  ∀ (nnn : Imm12) (s : State),
    Encodes (0x1#4 ++ nnn) (.jp nnn) ∧ exec (.jp nnn) s = .next { s with pc := BitVec.ofNat 16 nnn.toNat }

/-- BNNN JPV0: `NNN + V[0]`, not reduced to 12 bits (41_control_flow.md §2; that `PC` keeps the 16-bit sum is the spec's own
decision D2 of 92_eei_decisions.md). -/
def Obligations.JpV0AddsWithoutReducing : Prop :=
  ∀ (nnn : Imm12) (s : State),
    Encodes (0xB#4 ++ nnn) (.jpv0 nnn) ∧
    ∃ t, exec (.jpv0 nnn) s = .next t ∧ t.pc.toNat = nnn.toNat + (s.V 0).toNat ∧ t = { s with pc := t.pc }

/-- 3XNN SEI and 4XNN SNEI, each the other's complement (41_control_flow.md R84, R85). -/
def Obligations.ImmediateSkips : Prop :=
  ∀ (x : Nibble) (nn : Byte) (s : State),
    (Encodes (0x3#4 ++ x ++ nn) (.sei x nn) ∧ Skips (.sei x nn) s (s.V x = nn)) ∧
    (Encodes (0x4#4 ++ x ++ nn) (.snei x nn) ∧ Skips (.snei x nn) s (s.V x ≠ nn))

/-- 5XY0 SE and 9XY0 SNE; with `N ≠ 0` the word is illegal (41_control_flow.md R86, R87). -/
def Obligations.RegisterSkips : Prop :=
  ∀ (x y : Nibble) (s : State),
    (Encodes (0x5#4 ++ x ++ y ++ 0x0#4) (.se x y) ∧ Skips (.se x y) s (s.V x = s.V y)) ∧
    (Encodes (0x9#4 ++ x ++ y ++ 0x0#4) (.sne x y) ∧ Skips (.sne x y) s (s.V x ≠ s.V y)) ∧
    (∀ n : Nibble, n ≠ 0 → (∃ e, decode (0x5#4 ++ x ++ y ++ n) = .error e) ∧
      (∃ e, decode (0x9#4 ++ x ++ y ++ n) = .error e))

/-! Index register and memory transfer. -/

/-- ANNN LDIX (42_memory_transfer.md R95). -/
def Obligations.LdixLoadsIndex : Prop :=
  ∀ (nnn : Imm12) (s : State),
    Encodes (0xA#4 ++ nnn) (.ldix nnn) ∧ exec (.ldix nnn) s = .next { s with idx := BitVec.ofNat 16 nnn.toNat }

/-- FX1E ADDIX: the sum modulo 4096, VF 1 when it passes 0xFFF, else 0, with VF last also for `X = 15`
(42_memory_transfer.md R96). -/
def Obligations.AddixWrapsAndFlags : Prop :=
  ∀ (x : Nibble) (s : State),
    Encodes (0xF#4 ++ x ++ 0x1E#8) (.addix x) ∧
    ∃ t, exec (.addix x) s = .next t ∧ t.idx = BitVec.ofNat 16 ((s.idx.toNat + (s.V x).toNat) % 4096) ∧
      t.V 15 = (if s.idx.toNat + (s.V x).toNat > 0xFFF then 1 else 0) ∧ (∀ z, z ≠ 15 → t.V z = s.V z) ∧
      t = { s with regs := t.regs, idx := t.idx }

/-- FX29 FONT: the address of glyph `V[X] & 0xF` (42_memory_transfer.md R97). -/
def Obligations.FontPointsAtGlyph : Prop :=
  ∀ (x : Nibble) (s : State),
    Encodes (0xF#4 ++ x ++ 0x29#8) (.font x) ∧
    exec (.font x) s = .next { s with idx := BitVec.ofNat 16 (0x050 + 5 * ((s.V x).toNat % 16)) }

/-- FX33 BCD: hundreds, tens and units at `I`, `I + 1`, `I + 2` modulo 4096, always all three; every other byte and all other
state unchanged (42_memory_transfer.md R98). -/
def Obligations.BcdStoresThreeDigits : Prop :=
  ∀ (x : Nibble) (s : State),
    Encodes (0xF#4 ++ x ++ 0x33#8) (.bcd x) ∧
    ∃ t, exec (.bcd x) s = .next t ∧
      (s.mem.wf →
        t.memRead (s.dataAddr 0) = BitVec.ofNat 8 ((s.V x).toNat / 100) ∧
        t.memRead (s.dataAddr 1) = BitVec.ofNat 8 ((s.V x).toNat / 10 % 10) ∧
        t.memRead (s.dataAddr 2) = BitVec.ofNat 8 ((s.V x).toNat % 10)) ∧
      (∀ a, (∀ k, k < 3 → a % 4096 ≠ s.dataAddr k) → t.memRead a = s.memRead a) ∧
      t = { s with mem := t.mem }

/-- FX55 STM: `V[0]` to `V[X]` at `I` up, modulo 4096; every other byte and all other state, `I` included, unchanged
(42_memory_transfer.md R100). -/
def Obligations.StmStoresBlock : Prop :=
  ∀ (x : Nibble) (s : State),
    Encodes (0xF#4 ++ x ++ 0x55#8) (.stm x) ∧
    ∃ t, exec (.stm x) s = .next t ∧
      (s.mem.wf → ∀ k : Nibble, k.toNat ≤ x.toNat → t.memRead (s.dataAddr k.toNat) = s.V k) ∧
      (∀ a, (∀ k, k ≤ x.toNat → a % 4096 ≠ s.dataAddr k) → t.memRead a = s.memRead a) ∧
      t = { s with mem := t.mem }

/-- FX65 LDM: memory at `I` up, modulo 4096, into `V[0]` to `V[X]`; the registers above and all other state, `I` and memory
included, unchanged (42_memory_transfer.md R101). -/
def Obligations.LdmLoadsBlock : Prop :=
  ∀ (x : Nibble) (s : State),
    Encodes (0xF#4 ++ x ++ 0x65#8) (.ldm x) ∧
    ∃ t, exec (.ldm x) s = .next t ∧
      (∀ k : Nibble, k.toNat ≤ x.toNat → t.V k = s.memRead (s.dataAddr k.toNat)) ∧
      (∀ k : Nibble, x.toNat < k.toNat → t.V k = s.V k) ∧
      t = { s with regs := t.regs }

/-! The display. -/

/-- 00E0 CLS: every pixel becomes clear, VF and all else unchanged (43_sprite_drawing.md R110). -/
def Obligations.ClsClearsEveryPixel : Prop :=
  Encodes 0x00E0 .cls ∧
  ∀ s : State, ∃ t, exec .cls s = .next t ∧ (∀ c r, c < 64 → r < 32 → t.fb.isPixelSet c r = false) ∧
    t = { s with fb := t.fb }

/-- DXYN DRW: every pixel of the grid is turned over exactly where a set bit of the sprite falls on it (the origin modulo 64 and
32, the body clipped), VF is 1 exactly when one of those pixels was set, and all else is unchanged (43_sprite_drawing.md
R111). -/
def Obligations.DrwTurnsOverSpritePixels : Prop :=
  ∀ (x y n : Nibble) (s : State),
    Encodes (0xD#4 ++ x ++ y ++ n) (.drw x y n) ∧
    ∃ t, exec (.drw x y n) s = .next t ∧
      (∀ c r, c < 64 → r < 32 → t.fb.isPixelSet c r =
        (s.fb.isPixelSet c r ^^
          spriteBit s.mem s.idx.toNat ((s.V x).toNat % 64) ((s.V y).toNat % 32) n.toNat c r)) ∧
      ((∃ c r, c < 64 ∧ r < 32 ∧ s.fb.isPixelSet c r = true ∧
          spriteBit s.mem s.idx.toNat ((s.V x).toNat % 64) ((s.V y).toNat % 32) n.toNat c r = true) →
        t.V 15 = 1) ∧
      ((¬ ∃ c r, c < 64 ∧ r < 32 ∧ s.fb.isPixelSet c r = true ∧
          spriteBit s.mem s.idx.toNat ((s.V x).toNat % 64) ((s.V y).toNat % 32) n.toNat c r = true) →
        t.V 15 = 0) ∧
      (∀ z, z ≠ 15 → t.V z = s.V z) ∧
      t = { s with regs := t.regs, fb := t.fb }

/-- Drawing undoes itself: a second DXYN with the same `I`, sprite bytes, `V[X]` and `V[Y]` on the display the first left
restores the display; a sprite with a set bit inside the grid whose first draw reports 0 reports 1 the second time; a sprite
with none reports 0 both times (43_sprite_drawing.md R112). The precise form is the spec's own inference, which R112 marks
"[derived: from rule R111]". -/
def Obligations.DrawingTwiceRestoresDisplay : Prop :=
  ∀ (x y n : Nibble) (s t s' : State), exec (.drw x y n) s = .next t →
    s'.fb = t.fb → s'.idx = s.idx → s'.V x = s.V x → s'.V y = s.V y →
    (∀ k, k < n.toNat → s'.memRead (s.idx.toNat + k) = s.memRead (s.idx.toNat + k)) →
    ∃ t', exec (.drw x y n) s' = .next t' ∧ t'.fb = s.fb ∧
      (t.V 15 = 0 →
        (∃ c r, c < 64 ∧ r < 32 ∧
          spriteBit s.mem s.idx.toNat ((s.V x).toNat % 64) ((s.V y).toNat % 32) n.toNat c r = true) →
        t'.V 15 = 1) ∧
      ((∀ c r, c < 64 → r < 32 →
          spriteBit s.mem s.idx.toNat ((s.V x).toNat % 64) ((s.V y).toNat % 32) n.toNat c r = false) →
        t.V 15 = 0 ∧ t'.V 15 = 0)

/-! Keys and timers. -/

/-- EX9E SKP and EXA1 SKNP: one query for the key `V[X] & 0xF`; SKP skips when it is held, SKNP when it is not, and nothing else
of the spec's state changes (44_key_input.md R120, R121). The answer is a free value, taken at the model's counter `draws`
(log 5). -/
def Obligations.KeySkipsAskLowNibble : Prop :=
  ∀ (x : Nibble) (s : State),
    (Encodes (0xE#4 ++ x ++ 0x9E#8) (.skp x) ∧
      exec (.skp x) s = .next { s with
        pc := if Config.keyHeld s.draws (BitVec.ofNat 4 ((s.V x).toNat % 16)) then s.pc + 2 else s.pc
        draws := s.draws + 1 }) ∧
    (Encodes (0xE#4 ++ x ++ 0xA1#8) (.sknp x) ∧
      exec (.sknp x) s = .next { s with
        pc := if Config.keyHeld s.draws (BitVec.ofNat 4 ((s.V x).toNat % 16)) then s.pc else s.pc + 2
        draws := s.draws + 1 })

/-- FX0A WAITK begins the wait: `MODE` becomes WAIT_KEY, `PC` stays advanced, nothing else changes (44_key_input.md R122; that
the mode holds `X` is log 6). -/
def Obligations.WaitkBeginsKeyWait : Prop :=
  ∀ (x : Nibble) (s : State),
    Encodes (0xF#4 ++ x ++ 0x0A#8) (.waitk x) ∧ exec (.waitk x) s = .next { s with mode := .waitKey x }

/-- FX07 GETDT reads `DT`, FX15 SETDT writes it, FX18 SETST writes `ST` and leaves `TONE`; each changes nothing else
(45_timer_access.md R130, R131, R132). -/
def Obligations.TimerInstructionsAccessOneTimer : Prop :=
  ∀ (x : Nibble) (s : State),
    (Encodes (0xF#4 ++ x ++ 0x07#8) (.getdt x) ∧ WritesReg (.getdt x) s x s.dt) ∧
    (Encodes (0xF#4 ++ x ++ 0x15#8) (.setdt x) ∧ exec (.setdt x) s = .next { s with dt := s.V x }) ∧
    (Encodes (0xF#4 ++ x ++ 0x18#8) (.setst x) ∧ exec (.setst x) s = .next { s with st := s.V x })

/-! Rules of the whole machine. -/

/-- Of the 34 instructions only RET on an empty stack and CALL at depth 16 halt the engine (60_exceptions.md R144). -/
def Obligations.OnlyStackFaultsHalt : Prop :=
  ∀ (i : Instr) (s t : State), s.mode ≠ .halted → exec i s = .next t → t.mode = .halted →
    (i = .ret ∧ s.stack = []) ∨ (∃ nnn, i = .call nnn ∧ s.stack.length = 16)

/-- Each instruction writes only the registers of the table in 10_state.md R10. -/
def Obligations.RegistersChangeOnlyByTable : Prop :=
  ∀ (i : Instr) (s t : State) (z : Nibble), exec i s = .next t → t.V z ≠ s.V z → mayWriteReg i z

/-- The instructions that write a flag into VF leave 0 or 1 there (10_state.md R11). -/
def Obligations.FlagWritersLeaveZeroOrOne : Prop :=
  ∀ (i : Instr) (s t : State), writesFlag i → exec i s = .next t → t.V 15 = 0 ∨ t.V 15 = 1

/-- Who writes what: memory only FX33 and FX55 (20_memory.md R33), the display only 00E0 and DXYN (10_state.md R20), the stack
only 2NNN and 00EE (R15), `I` only ANNN, FX1E and FX29 (R14), `DT` only FX15 (R16), `ST` only FX18 (R17), and `TONE` no
instruction (R21). -/
def Obligations.EachStateElementHasItsWriters : Prop :=
  ∀ (i : Instr) (s t : State), exec i s = .next t →
    (t.mem ≠ s.mem → i.mnemonic = .bcd ∨ i.mnemonic = .stm) ∧
    (t.fb ≠ s.fb → i.mnemonic = .cls ∨ i.mnemonic = .drw) ∧
    (t.stack ≠ s.stack → i.mnemonic = .call ∨ i.mnemonic = .ret) ∧
    (t.idx ≠ s.idx → i.mnemonic = .ldix ∨ i.mnemonic = .addix ∨ i.mnemonic = .font) ∧
    (t.dt ≠ s.dt → i.mnemonic = .setdt) ∧
    (t.st ≠ s.st → i.mnemonic = .setst) ∧
    t.tone = s.tone

/-- No program can observe `ST` or `TONE` (10_state.md R17, R21): two states that differ in them alone take steps to states that
differ in them alone. -/
def Obligations.SoundStateIsUnobservable : Prop :=
  ∀ (s t : State) (st : Byte) (tone : Tone), step s = .next t →
    ∃ t', step { s with st := st, tone := tone } = .next t' ∧ t' = { t with st := t'.st, tone := t'.tone }

/-- The display's contents reach the program only through VF: two states that differ in the display alone take steps to states
that differ in the display alone, unless the step runs DXYN (10_state.md R20). -/
def Obligations.DisplayIsSeenOnlyByDraw : Prop :=
  ∀ (s t : State) (fb : Display), step s = .next t →
    (s.mode = .run → ∀ x y n, decode s.fetchWord ≠ .ok (.drw x y n)) →
    ∃ t', step { s with fb := fb } = .next t' ∧ t' = { t with fb := t'.fb }

/-- A settled program stays settled: the step is the jump to itself, and nothing changes but the timers and the tone under ticks
(and the model's counter). Settled is the spec's own definition D23 (92_eei_decisions.md). -/
def Obligations.SettledProgramStaysSettled : Prop :=
  ∀ s : State, s.Settled →
    ∃ t, step s = .next t ∧ t.Settled ∧ t = { s with dt := t.dt, st := t.st, tone := t.tone, draws := t.draws }
end

