-- ==== Sys2Proof/Laws/Decode.lean ====
section
/-! SUPPORT. The fields and the fixed bits of a word written digit by digit, form by form (30_encoding.md R47, R48). -/

namespace Sys2Proof

theorem fieldOp_formA (p : Nibble) (nnn : Imm12) : fieldOp (p ++ nnn) = p := by
  apply BitVec.eq_of_getLsbD_eq
  intro k hk
  simp only [fieldOp, BitVec.getLsbD_append, BitVec.getLsbD_extractLsb']
  interval_cases k <;> simp

theorem fieldNNN_formA (p : Nibble) (nnn : Imm12) : fieldNNN (p ++ nnn) = nnn := by
  apply BitVec.eq_of_getLsbD_eq
  intro k hk
  simp only [fieldNNN, BitVec.getLsbD_append, BitVec.getLsbD_extractLsb']
  interval_cases k <;> simp

/-- The mask of form A keeps the fixed digits. -/
theorem and_maskA (p : Nibble) (nnn : Imm12) :
    (p ++ nnn : Word) &&& 0xF000#16 = p ++ 0#12 := by
  apply BitVec.eq_of_getLsbD_eq
  intro k hk
  simp only [BitVec.getLsbD_and, BitVec.getLsbD_append]
  interval_cases k <;> simp

theorem fieldOp_formI (p x : Nibble) (nn : Byte) : fieldOp (p ++ x ++ nn) = p := by
  apply BitVec.eq_of_getLsbD_eq
  intro k hk
  simp only [fieldOp, BitVec.getLsbD_append, BitVec.getLsbD_extractLsb']
  interval_cases k <;> simp

theorem fieldX_formI (p x : Nibble) (nn : Byte) : fieldX (p ++ x ++ nn) = x := by
  apply BitVec.eq_of_getLsbD_eq
  intro k hk
  simp only [fieldX, BitVec.getLsbD_append, BitVec.getLsbD_extractLsb']
  interval_cases k <;> simp

theorem fieldNN_formI (p x : Nibble) (nn : Byte) : fieldNN (p ++ x ++ nn) = nn := by
  apply BitVec.eq_of_getLsbD_eq
  intro k hk
  simp only [fieldNN, BitVec.getLsbD_append, BitVec.getLsbD_extractLsb']
  interval_cases k <;> simp

/-- The mask of form I keeps the fixed digits. -/
theorem and_maskI (p x : Nibble) (nn : Byte) :
    (p ++ x ++ nn : Word) &&& 0xF000#16 = p ++ 0#4 ++ 0#8 := by
  apply BitVec.eq_of_getLsbD_eq
  intro k hk
  simp only [BitVec.getLsbD_and, BitVec.getLsbD_append]
  interval_cases k <;> simp

theorem fieldOp_formR (p x y q : Nibble) : fieldOp (p ++ x ++ y ++ q) = p := by
  apply BitVec.eq_of_getLsbD_eq
  intro k hk
  simp only [fieldOp, BitVec.getLsbD_append, BitVec.getLsbD_extractLsb']
  interval_cases k <;> simp

theorem fieldX_formR (p x y q : Nibble) : fieldX (p ++ x ++ y ++ q) = x := by
  apply BitVec.eq_of_getLsbD_eq
  intro k hk
  simp only [fieldX, BitVec.getLsbD_append, BitVec.getLsbD_extractLsb']
  interval_cases k <;> simp

theorem fieldY_formR (p x y q : Nibble) : fieldY (p ++ x ++ y ++ q) = y := by
  apply BitVec.eq_of_getLsbD_eq
  intro k hk
  simp only [fieldY, BitVec.getLsbD_append, BitVec.getLsbD_extractLsb']
  interval_cases k <;> simp

theorem fieldN_formR (p x y q : Nibble) : fieldN (p ++ x ++ y ++ q) = q := by
  apply BitVec.eq_of_getLsbD_eq
  intro k hk
  simp only [fieldN, BitVec.getLsbD_append, BitVec.getLsbD_extractLsb']
  interval_cases k <;> simp

/-- The mask of form R keeps the fixed digits. -/
theorem and_maskR (p x y q : Nibble) :
    (p ++ x ++ y ++ q : Word) &&& 0xF00F#16 = p ++ 0#4 ++ 0#4 ++ q := by
  apply BitVec.eq_of_getLsbD_eq
  intro k hk
  simp only [BitVec.getLsbD_and, BitVec.getLsbD_append]
  interval_cases k <;> simp

/-- The mask of form U keeps the fixed digits. -/
theorem and_maskU (p x : Nibble) (qq : Byte) :
    (p ++ x ++ qq : Word) &&& 0xF0FF#16 = p ++ 0#4 ++ qq := by
  apply BitVec.eq_of_getLsbD_eq
  intro k hk
  simp only [BitVec.getLsbD_and, BitVec.getLsbD_append]
  interval_cases k <;> simp

/-- The mask of form S keeps the fixed digits. -/
theorem and_maskS (p x y n : Nibble) :
    (p ++ x ++ y ++ n : Word) &&& 0xF000#16 = p ++ 0#4 ++ 0#4 ++ 0#4 := by
  apply BitVec.eq_of_getLsbD_eq
  intro k hk
  simp only [BitVec.getLsbD_and, BitVec.getLsbD_append]
  interval_cases k <;> simp

end Sys2Proof
end

