-- ==== Sys2Proof/Laws/State.lean ====
section
/-! SUPPORT. One lemma per field of State per update (Machine/Ops.lean), so that no proof unfolds a record update. -/

namespace Sys2Proof.Machine

variable (s : State)

/-! `setV` -/

@[simp] theorem State.setV_regs (x : Nibble) (b : Byte) : (s.setV x b).regs = s.regs.set x.toNat b x.isLt := rfl
@[simp] theorem State.setV_idx (x : Nibble) (b : Byte) : (s.setV x b).idx = s.idx := rfl
@[simp] theorem State.setV_pc (x : Nibble) (b : Byte) : (s.setV x b).pc = s.pc := rfl
@[simp] theorem State.setV_stack (x : Nibble) (b : Byte) : (s.setV x b).stack = s.stack := rfl
@[simp] theorem State.setV_dt (x : Nibble) (b : Byte) : (s.setV x b).dt = s.dt := rfl
@[simp] theorem State.setV_st (x : Nibble) (b : Byte) : (s.setV x b).st = s.st := rfl
@[simp] theorem State.setV_mode (x : Nibble) (b : Byte) : (s.setV x b).mode = s.mode := rfl
@[simp] theorem State.setV_fault (x : Nibble) (b : Byte) : (s.setV x b).fault = s.fault := rfl
@[simp] theorem State.setV_mem (x : Nibble) (b : Byte) : (s.setV x b).mem = s.mem := rfl
@[simp] theorem State.setV_fb (x : Nibble) (b : Byte) : (s.setV x b).fb = s.fb := rfl
@[simp] theorem State.setV_tone (x : Nibble) (b : Byte) : (s.setV x b).tone = s.tone := rfl
@[simp] theorem State.setV_draws (x : Nibble) (b : Byte) : (s.setV x b).draws = s.draws := rfl
@[simp] theorem State.setV_memRead (x : Nibble) (b : Byte) (addr : Nat) : (s.setV x b).memRead addr = s.memRead addr := rfl

/-! `setIdx` -/

@[simp] theorem State.setIdx_regs (w : Word) : (s.setIdx w).regs = s.regs := rfl
@[simp] theorem State.setIdx_idx (w : Word) : (s.setIdx w).idx = w := rfl
@[simp] theorem State.setIdx_pc (w : Word) : (s.setIdx w).pc = s.pc := rfl
@[simp] theorem State.setIdx_stack (w : Word) : (s.setIdx w).stack = s.stack := rfl
@[simp] theorem State.setIdx_dt (w : Word) : (s.setIdx w).dt = s.dt := rfl
@[simp] theorem State.setIdx_st (w : Word) : (s.setIdx w).st = s.st := rfl
@[simp] theorem State.setIdx_mode (w : Word) : (s.setIdx w).mode = s.mode := rfl
@[simp] theorem State.setIdx_fault (w : Word) : (s.setIdx w).fault = s.fault := rfl
@[simp] theorem State.setIdx_mem (w : Word) : (s.setIdx w).mem = s.mem := rfl
@[simp] theorem State.setIdx_fb (w : Word) : (s.setIdx w).fb = s.fb := rfl
@[simp] theorem State.setIdx_tone (w : Word) : (s.setIdx w).tone = s.tone := rfl
@[simp] theorem State.setIdx_draws (w : Word) : (s.setIdx w).draws = s.draws := rfl
@[simp] theorem State.setIdx_V (w : Word) (z : Nibble) : (s.setIdx w).V z = s.V z := rfl
@[simp] theorem State.setIdx_memRead (w : Word) (addr : Nat) : (s.setIdx w).memRead addr = s.memRead addr := rfl

/-! `setPc` -/

@[simp] theorem State.setPc_regs (w : Word) : (s.setPc w).regs = s.regs := rfl
@[simp] theorem State.setPc_idx (w : Word) : (s.setPc w).idx = s.idx := rfl
@[simp] theorem State.setPc_pc (w : Word) : (s.setPc w).pc = w := rfl
@[simp] theorem State.setPc_stack (w : Word) : (s.setPc w).stack = s.stack := rfl
@[simp] theorem State.setPc_dt (w : Word) : (s.setPc w).dt = s.dt := rfl
@[simp] theorem State.setPc_st (w : Word) : (s.setPc w).st = s.st := rfl
@[simp] theorem State.setPc_mode (w : Word) : (s.setPc w).mode = s.mode := rfl
@[simp] theorem State.setPc_fault (w : Word) : (s.setPc w).fault = s.fault := rfl
@[simp] theorem State.setPc_mem (w : Word) : (s.setPc w).mem = s.mem := rfl
@[simp] theorem State.setPc_fb (w : Word) : (s.setPc w).fb = s.fb := rfl
@[simp] theorem State.setPc_tone (w : Word) : (s.setPc w).tone = s.tone := rfl
@[simp] theorem State.setPc_draws (w : Word) : (s.setPc w).draws = s.draws := rfl
@[simp] theorem State.setPc_V (w : Word) (z : Nibble) : (s.setPc w).V z = s.V z := rfl
@[simp] theorem State.setPc_memRead (w : Word) (addr : Nat) : (s.setPc w).memRead addr = s.memRead addr := rfl

/-! `setStack` -/

@[simp] theorem State.setStack_regs (ws : List Word) : (s.setStack ws).regs = s.regs := rfl
@[simp] theorem State.setStack_idx (ws : List Word) : (s.setStack ws).idx = s.idx := rfl
@[simp] theorem State.setStack_pc (ws : List Word) : (s.setStack ws).pc = s.pc := rfl
@[simp] theorem State.setStack_stack (ws : List Word) : (s.setStack ws).stack = ws := rfl
@[simp] theorem State.setStack_dt (ws : List Word) : (s.setStack ws).dt = s.dt := rfl
@[simp] theorem State.setStack_st (ws : List Word) : (s.setStack ws).st = s.st := rfl
@[simp] theorem State.setStack_mode (ws : List Word) : (s.setStack ws).mode = s.mode := rfl
@[simp] theorem State.setStack_fault (ws : List Word) : (s.setStack ws).fault = s.fault := rfl
@[simp] theorem State.setStack_mem (ws : List Word) : (s.setStack ws).mem = s.mem := rfl
@[simp] theorem State.setStack_fb (ws : List Word) : (s.setStack ws).fb = s.fb := rfl
@[simp] theorem State.setStack_tone (ws : List Word) : (s.setStack ws).tone = s.tone := rfl
@[simp] theorem State.setStack_draws (ws : List Word) : (s.setStack ws).draws = s.draws := rfl
@[simp] theorem State.setStack_V (ws : List Word) (z : Nibble) : (s.setStack ws).V z = s.V z := rfl
@[simp] theorem State.setStack_memRead (ws : List Word) (addr : Nat) : (s.setStack ws).memRead addr = s.memRead addr := rfl

/-! `setDt` -/

@[simp] theorem State.setDt_regs (b : Byte) : (s.setDt b).regs = s.regs := rfl
@[simp] theorem State.setDt_idx (b : Byte) : (s.setDt b).idx = s.idx := rfl
@[simp] theorem State.setDt_pc (b : Byte) : (s.setDt b).pc = s.pc := rfl
@[simp] theorem State.setDt_stack (b : Byte) : (s.setDt b).stack = s.stack := rfl
@[simp] theorem State.setDt_dt (b : Byte) : (s.setDt b).dt = b := rfl
@[simp] theorem State.setDt_st (b : Byte) : (s.setDt b).st = s.st := rfl
@[simp] theorem State.setDt_mode (b : Byte) : (s.setDt b).mode = s.mode := rfl
@[simp] theorem State.setDt_fault (b : Byte) : (s.setDt b).fault = s.fault := rfl
@[simp] theorem State.setDt_mem (b : Byte) : (s.setDt b).mem = s.mem := rfl
@[simp] theorem State.setDt_fb (b : Byte) : (s.setDt b).fb = s.fb := rfl
@[simp] theorem State.setDt_tone (b : Byte) : (s.setDt b).tone = s.tone := rfl
@[simp] theorem State.setDt_draws (b : Byte) : (s.setDt b).draws = s.draws := rfl
@[simp] theorem State.setDt_V (b : Byte) (z : Nibble) : (s.setDt b).V z = s.V z := rfl
@[simp] theorem State.setDt_memRead (b : Byte) (addr : Nat) : (s.setDt b).memRead addr = s.memRead addr := rfl

/-! `setSt` -/

@[simp] theorem State.setSt_regs (b : Byte) : (s.setSt b).regs = s.regs := rfl
@[simp] theorem State.setSt_idx (b : Byte) : (s.setSt b).idx = s.idx := rfl
@[simp] theorem State.setSt_pc (b : Byte) : (s.setSt b).pc = s.pc := rfl
@[simp] theorem State.setSt_stack (b : Byte) : (s.setSt b).stack = s.stack := rfl
@[simp] theorem State.setSt_dt (b : Byte) : (s.setSt b).dt = s.dt := rfl
@[simp] theorem State.setSt_st (b : Byte) : (s.setSt b).st = b := rfl
@[simp] theorem State.setSt_mode (b : Byte) : (s.setSt b).mode = s.mode := rfl
@[simp] theorem State.setSt_fault (b : Byte) : (s.setSt b).fault = s.fault := rfl
@[simp] theorem State.setSt_mem (b : Byte) : (s.setSt b).mem = s.mem := rfl
@[simp] theorem State.setSt_fb (b : Byte) : (s.setSt b).fb = s.fb := rfl
@[simp] theorem State.setSt_tone (b : Byte) : (s.setSt b).tone = s.tone := rfl
@[simp] theorem State.setSt_draws (b : Byte) : (s.setSt b).draws = s.draws := rfl
@[simp] theorem State.setSt_V (b : Byte) (z : Nibble) : (s.setSt b).V z = s.V z := rfl
@[simp] theorem State.setSt_memRead (b : Byte) (addr : Nat) : (s.setSt b).memRead addr = s.memRead addr := rfl

/-! `setMode` -/

@[simp] theorem State.setMode_regs (m : Mode) : (s.setMode m).regs = s.regs := rfl
@[simp] theorem State.setMode_idx (m : Mode) : (s.setMode m).idx = s.idx := rfl
@[simp] theorem State.setMode_pc (m : Mode) : (s.setMode m).pc = s.pc := rfl
@[simp] theorem State.setMode_stack (m : Mode) : (s.setMode m).stack = s.stack := rfl
@[simp] theorem State.setMode_dt (m : Mode) : (s.setMode m).dt = s.dt := rfl
@[simp] theorem State.setMode_st (m : Mode) : (s.setMode m).st = s.st := rfl
@[simp] theorem State.setMode_mode (m : Mode) : (s.setMode m).mode = m := rfl
@[simp] theorem State.setMode_fault (m : Mode) : (s.setMode m).fault = s.fault := rfl
@[simp] theorem State.setMode_mem (m : Mode) : (s.setMode m).mem = s.mem := rfl
@[simp] theorem State.setMode_fb (m : Mode) : (s.setMode m).fb = s.fb := rfl
@[simp] theorem State.setMode_tone (m : Mode) : (s.setMode m).tone = s.tone := rfl
@[simp] theorem State.setMode_draws (m : Mode) : (s.setMode m).draws = s.draws := rfl
@[simp] theorem State.setMode_V (m : Mode) (z : Nibble) : (s.setMode m).V z = s.V z := rfl
@[simp] theorem State.setMode_memRead (m : Mode) (addr : Nat) : (s.setMode m).memRead addr = s.memRead addr := rfl

/-! `setFault` -/

@[simp] theorem State.setFault_regs (r : Option FaultRecord) : (s.setFault r).regs = s.regs := rfl
@[simp] theorem State.setFault_idx (r : Option FaultRecord) : (s.setFault r).idx = s.idx := rfl
@[simp] theorem State.setFault_pc (r : Option FaultRecord) : (s.setFault r).pc = s.pc := rfl
@[simp] theorem State.setFault_stack (r : Option FaultRecord) : (s.setFault r).stack = s.stack := rfl
@[simp] theorem State.setFault_dt (r : Option FaultRecord) : (s.setFault r).dt = s.dt := rfl
@[simp] theorem State.setFault_st (r : Option FaultRecord) : (s.setFault r).st = s.st := rfl
@[simp] theorem State.setFault_mode (r : Option FaultRecord) : (s.setFault r).mode = s.mode := rfl
@[simp] theorem State.setFault_fault (r : Option FaultRecord) : (s.setFault r).fault = r := rfl
@[simp] theorem State.setFault_mem (r : Option FaultRecord) : (s.setFault r).mem = s.mem := rfl
@[simp] theorem State.setFault_fb (r : Option FaultRecord) : (s.setFault r).fb = s.fb := rfl
@[simp] theorem State.setFault_tone (r : Option FaultRecord) : (s.setFault r).tone = s.tone := rfl
@[simp] theorem State.setFault_draws (r : Option FaultRecord) : (s.setFault r).draws = s.draws := rfl
@[simp] theorem State.setFault_V (r : Option FaultRecord) (z : Nibble) : (s.setFault r).V z = s.V z := rfl
@[simp] theorem State.setFault_memRead (r : Option FaultRecord) (addr : Nat) : (s.setFault r).memRead addr = s.memRead addr := rfl

/-! `setMem` -/

@[simp] theorem State.setMem_regs (m : Memory) : (s.setMem m).regs = s.regs := rfl
@[simp] theorem State.setMem_idx (m : Memory) : (s.setMem m).idx = s.idx := rfl
@[simp] theorem State.setMem_pc (m : Memory) : (s.setMem m).pc = s.pc := rfl
@[simp] theorem State.setMem_stack (m : Memory) : (s.setMem m).stack = s.stack := rfl
@[simp] theorem State.setMem_dt (m : Memory) : (s.setMem m).dt = s.dt := rfl
@[simp] theorem State.setMem_st (m : Memory) : (s.setMem m).st = s.st := rfl
@[simp] theorem State.setMem_mode (m : Memory) : (s.setMem m).mode = s.mode := rfl
@[simp] theorem State.setMem_fault (m : Memory) : (s.setMem m).fault = s.fault := rfl
@[simp] theorem State.setMem_mem (m : Memory) : (s.setMem m).mem = m := rfl
@[simp] theorem State.setMem_fb (m : Memory) : (s.setMem m).fb = s.fb := rfl
@[simp] theorem State.setMem_tone (m : Memory) : (s.setMem m).tone = s.tone := rfl
@[simp] theorem State.setMem_draws (m : Memory) : (s.setMem m).draws = s.draws := rfl
@[simp] theorem State.setMem_V (m : Memory) (z : Nibble) : (s.setMem m).V z = s.V z := rfl

/-! `setFb` -/

@[simp] theorem State.setFb_regs (d : Display) : (s.setFb d).regs = s.regs := rfl
@[simp] theorem State.setFb_idx (d : Display) : (s.setFb d).idx = s.idx := rfl
@[simp] theorem State.setFb_pc (d : Display) : (s.setFb d).pc = s.pc := rfl
@[simp] theorem State.setFb_stack (d : Display) : (s.setFb d).stack = s.stack := rfl
@[simp] theorem State.setFb_dt (d : Display) : (s.setFb d).dt = s.dt := rfl
@[simp] theorem State.setFb_st (d : Display) : (s.setFb d).st = s.st := rfl
@[simp] theorem State.setFb_mode (d : Display) : (s.setFb d).mode = s.mode := rfl
@[simp] theorem State.setFb_fault (d : Display) : (s.setFb d).fault = s.fault := rfl
@[simp] theorem State.setFb_mem (d : Display) : (s.setFb d).mem = s.mem := rfl
@[simp] theorem State.setFb_fb (d : Display) : (s.setFb d).fb = d := rfl
@[simp] theorem State.setFb_tone (d : Display) : (s.setFb d).tone = s.tone := rfl
@[simp] theorem State.setFb_draws (d : Display) : (s.setFb d).draws = s.draws := rfl
@[simp] theorem State.setFb_V (d : Display) (z : Nibble) : (s.setFb d).V z = s.V z := rfl
@[simp] theorem State.setFb_memRead (d : Display) (addr : Nat) : (s.setFb d).memRead addr = s.memRead addr := rfl

/-! `setTone` -/

@[simp] theorem State.setTone_regs (t : Tone) : (s.setTone t).regs = s.regs := rfl
@[simp] theorem State.setTone_idx (t : Tone) : (s.setTone t).idx = s.idx := rfl
@[simp] theorem State.setTone_pc (t : Tone) : (s.setTone t).pc = s.pc := rfl
@[simp] theorem State.setTone_stack (t : Tone) : (s.setTone t).stack = s.stack := rfl
@[simp] theorem State.setTone_dt (t : Tone) : (s.setTone t).dt = s.dt := rfl
@[simp] theorem State.setTone_st (t : Tone) : (s.setTone t).st = s.st := rfl
@[simp] theorem State.setTone_mode (t : Tone) : (s.setTone t).mode = s.mode := rfl
@[simp] theorem State.setTone_fault (t : Tone) : (s.setTone t).fault = s.fault := rfl
@[simp] theorem State.setTone_mem (t : Tone) : (s.setTone t).mem = s.mem := rfl
@[simp] theorem State.setTone_fb (t : Tone) : (s.setTone t).fb = s.fb := rfl
@[simp] theorem State.setTone_tone (t : Tone) : (s.setTone t).tone = t := rfl
@[simp] theorem State.setTone_draws (t : Tone) : (s.setTone t).draws = s.draws := rfl
@[simp] theorem State.setTone_V (t : Tone) (z : Nibble) : (s.setTone t).V z = s.V z := rfl
@[simp] theorem State.setTone_memRead (t : Tone) (addr : Nat) : (s.setTone t).memRead addr = s.memRead addr := rfl

/-! `nextDraw` -/

@[simp] theorem State.nextDraw_regs : (s.nextDraw).regs = s.regs := rfl
@[simp] theorem State.nextDraw_idx : (s.nextDraw).idx = s.idx := rfl
@[simp] theorem State.nextDraw_pc : (s.nextDraw).pc = s.pc := rfl
@[simp] theorem State.nextDraw_stack : (s.nextDraw).stack = s.stack := rfl
@[simp] theorem State.nextDraw_dt : (s.nextDraw).dt = s.dt := rfl
@[simp] theorem State.nextDraw_st : (s.nextDraw).st = s.st := rfl
@[simp] theorem State.nextDraw_mode : (s.nextDraw).mode = s.mode := rfl
@[simp] theorem State.nextDraw_fault : (s.nextDraw).fault = s.fault := rfl
@[simp] theorem State.nextDraw_mem : (s.nextDraw).mem = s.mem := rfl
@[simp] theorem State.nextDraw_fb : (s.nextDraw).fb = s.fb := rfl
@[simp] theorem State.nextDraw_tone : (s.nextDraw).tone = s.tone := rfl
@[simp] theorem State.nextDraw_draws : (s.nextDraw).draws = s.draws + 1 := rfl
@[simp] theorem State.nextDraw_V (z : Nibble) : (s.nextDraw).V z = s.V z := rfl
@[simp] theorem State.nextDraw_memRead (addr : Nat) : (s.nextDraw).memRead addr = s.memRead addr := rfl

/-! `advancePc` -/

@[simp] theorem State.advancePc_regs : (s.advancePc).regs = s.regs := rfl
@[simp] theorem State.advancePc_idx : (s.advancePc).idx = s.idx := rfl
@[simp] theorem State.advancePc_pc : (s.advancePc).pc = s.pc + 2 := rfl
@[simp] theorem State.advancePc_stack : (s.advancePc).stack = s.stack := rfl
@[simp] theorem State.advancePc_dt : (s.advancePc).dt = s.dt := rfl
@[simp] theorem State.advancePc_st : (s.advancePc).st = s.st := rfl
@[simp] theorem State.advancePc_mode : (s.advancePc).mode = s.mode := rfl
@[simp] theorem State.advancePc_fault : (s.advancePc).fault = s.fault := rfl
@[simp] theorem State.advancePc_mem : (s.advancePc).mem = s.mem := rfl
@[simp] theorem State.advancePc_fb : (s.advancePc).fb = s.fb := rfl
@[simp] theorem State.advancePc_tone : (s.advancePc).tone = s.tone := rfl
@[simp] theorem State.advancePc_draws : (s.advancePc).draws = s.draws := rfl
@[simp] theorem State.advancePc_V (z : Nibble) : (s.advancePc).V z = s.V z := rfl
@[simp] theorem State.advancePc_memRead (addr : Nat) : (s.advancePc).memRead addr = s.memRead addr := rfl

/-! `push` -/

@[simp] theorem State.push_regs (w : Word) : (s.push w).regs = s.regs := rfl
@[simp] theorem State.push_idx (w : Word) : (s.push w).idx = s.idx := rfl
@[simp] theorem State.push_pc (w : Word) : (s.push w).pc = s.pc := rfl
@[simp] theorem State.push_stack (w : Word) : (s.push w).stack = s.stack ++ [w] := rfl
@[simp] theorem State.push_dt (w : Word) : (s.push w).dt = s.dt := rfl
@[simp] theorem State.push_st (w : Word) : (s.push w).st = s.st := rfl
@[simp] theorem State.push_mode (w : Word) : (s.push w).mode = s.mode := rfl
@[simp] theorem State.push_fault (w : Word) : (s.push w).fault = s.fault := rfl
@[simp] theorem State.push_mem (w : Word) : (s.push w).mem = s.mem := rfl
@[simp] theorem State.push_fb (w : Word) : (s.push w).fb = s.fb := rfl
@[simp] theorem State.push_tone (w : Word) : (s.push w).tone = s.tone := rfl
@[simp] theorem State.push_draws (w : Word) : (s.push w).draws = s.draws := rfl
@[simp] theorem State.push_V (w : Word) (z : Nibble) : (s.push w).V z = s.V z := rfl
@[simp] theorem State.push_memRead (w : Word) (addr : Nat) : (s.push w).memRead addr = s.memRead addr := rfl

/-! `memWrite` -/

@[simp] theorem State.memWrite_regs (a : Nat) (b : Byte) : (s.memWrite a b).regs = s.regs := rfl
@[simp] theorem State.memWrite_idx (a : Nat) (b : Byte) : (s.memWrite a b).idx = s.idx := rfl
@[simp] theorem State.memWrite_pc (a : Nat) (b : Byte) : (s.memWrite a b).pc = s.pc := rfl
@[simp] theorem State.memWrite_stack (a : Nat) (b : Byte) : (s.memWrite a b).stack = s.stack := rfl
@[simp] theorem State.memWrite_dt (a : Nat) (b : Byte) : (s.memWrite a b).dt = s.dt := rfl
@[simp] theorem State.memWrite_st (a : Nat) (b : Byte) : (s.memWrite a b).st = s.st := rfl
@[simp] theorem State.memWrite_mode (a : Nat) (b : Byte) : (s.memWrite a b).mode = s.mode := rfl
@[simp] theorem State.memWrite_fault (a : Nat) (b : Byte) : (s.memWrite a b).fault = s.fault := rfl
@[simp] theorem State.memWrite_mem (a : Nat) (b : Byte) : (s.memWrite a b).mem = s.mem.write a b := rfl
@[simp] theorem State.memWrite_fb (a : Nat) (b : Byte) : (s.memWrite a b).fb = s.fb := rfl
@[simp] theorem State.memWrite_tone (a : Nat) (b : Byte) : (s.memWrite a b).tone = s.tone := rfl
@[simp] theorem State.memWrite_draws (a : Nat) (b : Byte) : (s.memWrite a b).draws = s.draws := rfl
@[simp] theorem State.memWrite_V (a : Nat) (b : Byte) (z : Nibble) : (s.memWrite a b).V z = s.V z := rfl

/-! `raise` -/

@[simp] theorem State.raise_regs (r : FaultRecord) : (s.raise r).regs = s.regs := rfl
@[simp] theorem State.raise_idx (r : FaultRecord) : (s.raise r).idx = s.idx := rfl
@[simp] theorem State.raise_pc (r : FaultRecord) : (s.raise r).pc = s.pc := rfl
@[simp] theorem State.raise_stack (r : FaultRecord) : (s.raise r).stack = s.stack := rfl
@[simp] theorem State.raise_dt (r : FaultRecord) : (s.raise r).dt = s.dt := rfl
@[simp] theorem State.raise_st (r : FaultRecord) : (s.raise r).st = s.st := rfl
@[simp] theorem State.raise_mode (r : FaultRecord) : (s.raise r).mode = .halted := rfl
@[simp] theorem State.raise_mem (r : FaultRecord) : (s.raise r).mem = s.mem := rfl
@[simp] theorem State.raise_fb (r : FaultRecord) : (s.raise r).fb = s.fb := rfl
@[simp] theorem State.raise_tone (r : FaultRecord) : (s.raise r).tone = s.tone := rfl
@[simp] theorem State.raise_draws (r : FaultRecord) : (s.raise r).draws = s.draws := rfl
@[simp] theorem State.raise_V (r : FaultRecord) (z : Nibble) : (s.raise r).V z = s.V z := rfl
@[simp] theorem State.raise_memRead (r : FaultRecord) (addr : Nat) : (s.raise r).memRead addr = s.memRead addr := rfl

/-! `setVThenFlag` -/

@[simp] theorem State.setVThenFlag_regs (x : Nibble) (b f : Byte) : (s.setVThenFlag x b f).regs = ((s.setV x b).setV 15 f).regs := rfl
@[simp] theorem State.setVThenFlag_idx (x : Nibble) (b f : Byte) : (s.setVThenFlag x b f).idx = s.idx := rfl
@[simp] theorem State.setVThenFlag_pc (x : Nibble) (b f : Byte) : (s.setVThenFlag x b f).pc = s.pc := rfl
@[simp] theorem State.setVThenFlag_stack (x : Nibble) (b f : Byte) : (s.setVThenFlag x b f).stack = s.stack := rfl
@[simp] theorem State.setVThenFlag_dt (x : Nibble) (b f : Byte) : (s.setVThenFlag x b f).dt = s.dt := rfl
@[simp] theorem State.setVThenFlag_st (x : Nibble) (b f : Byte) : (s.setVThenFlag x b f).st = s.st := rfl
@[simp] theorem State.setVThenFlag_mode (x : Nibble) (b f : Byte) : (s.setVThenFlag x b f).mode = s.mode := rfl
@[simp] theorem State.setVThenFlag_fault (x : Nibble) (b f : Byte) : (s.setVThenFlag x b f).fault = s.fault := rfl
@[simp] theorem State.setVThenFlag_mem (x : Nibble) (b f : Byte) : (s.setVThenFlag x b f).mem = s.mem := rfl
@[simp] theorem State.setVThenFlag_fb (x : Nibble) (b f : Byte) : (s.setVThenFlag x b f).fb = s.fb := rfl
@[simp] theorem State.setVThenFlag_tone (x : Nibble) (b f : Byte) : (s.setVThenFlag x b f).tone = s.tone := rfl
@[simp] theorem State.setVThenFlag_draws (x : Nibble) (b f : Byte) : (s.setVThenFlag x b f).draws = s.draws := rfl
@[simp] theorem State.setVThenFlag_memRead (x : Nibble) (b f : Byte) (addr : Nat) : (s.setVThenFlag x b f).memRead addr = s.memRead addr := rfl

/-- Raising with no earlier fault records the new one (60_exceptions.md R145). -/
theorem State.raise_fault_none (r : FaultRecord) (h : s.fault = none) : (s.raise r).fault = some r := by
  simp [State.raise, h]

/-- After raising, a fault is always recorded. -/
theorem State.raise_fault_isSome (r : FaultRecord) : (s.raise r).fault.isSome = true := by
  cases h : s.fault <;> simp [State.raise, h]

/-- Two states with equal fields are equal. -/
theorem State.ext_fields {s t : State} (h1 : s.regs = t.regs) (h2 : s.idx = t.idx) (h3 : s.pc = t.pc)
    (h4 : s.stack = t.stack) (h5 : s.dt = t.dt) (h6 : s.st = t.st) (h7 : s.mode = t.mode) (h8 : s.fault = t.fault)
    (h9 : s.mem = t.mem) (h10 : s.fb = t.fb) (h11 : s.tone = t.tone) (h12 : s.draws = t.draws) : s = t := by
  cases s; cases t; simp_all

end Sys2Proof.Machine
end

