-- ==== Sys2Proof/Laws/Registers.lean ====
section
/-! SUPPORT. What reading a general register gives after each register update (10_state.md R10, R11), and what the skip and
the block load do. -/

namespace Sys2Proof.Machine

variable (s : State)

/-- Reading after writing: the same register holds the value written, another register its old one. -/
theorem State.V_setV (x z : Nibble) (b : Byte) : (s.setV x b).V z = if z = x then b else s.V z := by
  simp only [State.V, State.setV, Vector.getElem_set]
  by_cases h : z = x
  · simp [h]
  · have : ¬ x.toNat = z.toNat := fun e => h (BitVec.eq_of_toNat_eq e.symm)
    simp [h, this]

@[simp] theorem State.V_setV_same (x : Nibble) (b : Byte) : (s.setV x b).V x = b := by simp [State.V_setV]

theorem State.V_setV_ne (x z : Nibble) (b : Byte) (h : z ≠ x) : (s.setV x b).V z = s.V z := by simp [State.V_setV, h]

/-- The flag is what remains in VF, the result stands in `V[x]` unless `x = 15`, every other register is unchanged
(90_conflicts.md C1). -/
theorem State.V_setVThenFlag (x z : Nibble) (b f : Byte) :
    (s.setVThenFlag x b f).V z = if z = 15 then f else if z = x then b else s.V z := by
  simp [State.setVThenFlag, State.V_setV]

/-- Two register files that read equal are equal. -/
theorem State.regs_ext {s t : State} (h : ∀ z, s.V z = t.V z) : s.regs = t.regs := by
  apply Vector.ext
  intro k hk
  have := h (BitVec.ofNat 4 k)
  have e : (BitVec.ofNat 4 k).toNat = k := by simp [BitVec.toNat_ofNat]; omega
  simpa [State.V, e] using this

/-- A skip writes `PC` only (41_control_flow.md R88). -/
theorem State.skipIf_eq (b : Bool) : s.skipIf b = s.setPc (if b then s.pc + 2 else s.pc) := by
  cases b <;> rfl

/-- The block load writes general registers only. -/
theorem State.loadRegs_eq (a : Nat) (ks : List Nibble) :
    s.loadRegs a ks = { s with regs := (s.loadRegs a ks).regs } := by
  induction ks generalizing s a with
  | nil => rfl
  | cons k ks ih => rw [State.loadRegs, ih]; rfl

/-- What a block load makes of the registers depends on the registers and memory alone. -/
theorem State.loadRegs_regs_congr {s t : State} (hr : s.regs = t.regs) (hm : s.mem = t.mem) (a : Nat) (ks : List Nibble) :
    (s.loadRegs a ks).regs = (t.loadRegs a ks).regs := by
  induction ks generalizing s t a with
  | nil => exact hr
  | cons k ks ih => exact ih (by simp [hr, State.memRead, hm]) (by simpa using hm) _

/-- The block load leaves a register that it does not name. -/
theorem State.V_loadRegs_of_notMem (a : Nat) (ks : List Nibble) (z : Nibble) (h : z ∉ ks) :
    (s.loadRegs a ks).V z = s.V z := by
  induction ks generalizing s a with
  | nil => rfl
  | cons k ks ih =>
    simp only [List.mem_cons, not_or] at h
    rw [State.loadRegs, ih _ _ h.2, State.V_setV_ne _ _ _ _ h.1]

/-- The block load of distinct registers fills the `j`-th from address `a + j` (42_memory_transfer.md R101). -/
theorem State.V_loadRegs_getElem (a : Nat) (ks : List Nibble) (hd : ks.Nodup) (j : Nat) (hj : j < ks.length) :
    (s.loadRegs a ks).V ks[j] = s.memRead (a + j) := by
  induction ks generalizing s a j with
  | nil => simp at hj
  | cons k ks ih =>
    rw [List.nodup_cons] at hd
    rw [State.loadRegs]
    cases j with
    | zero => simp [State.V_loadRegs_of_notMem _ _ _ _ hd.1]
    | succ j =>
      have := ih (s.setV k (s.memRead a)) (a + 1) hd.2 j (by simpa using hj)
      simpa [Nat.add_assoc, Nat.add_comm 1 j] using this

/-- `V[z]` is in the block `V[0]` to `V[x]` exactly when `z ≤ x` (30_encoding.md R49). -/
theorem mem_blockRegs (x z : Nibble) : z ∈ blockRegs x ↔ z.toNat ≤ x.toNat := by
  simp only [blockRegs, List.mem_map, List.mem_range]
  constructor
  · rintro ⟨k, hk, rfl⟩
    simp [BitVec.toNat_ofNat]; omega
  · intro h
    exact ⟨z.toNat, by omega, by simp⟩

@[simp] theorem length_blockRegs (x : Nibble) : (blockRegs x).length = x.toNat + 1 := by simp [blockRegs]

theorem getElem_blockRegs (x : Nibble) (j : Nat) (h : j < (blockRegs x).length) :
    (blockRegs x)[j] = BitVec.ofNat 4 j := by simp [blockRegs]

theorem nodup_blockRegs (x : Nibble) : (blockRegs x).Nodup := by
  apply List.Nodup.map_on _ List.nodup_range
  intro a ha b hb e
  have := congrArg BitVec.toNat e
  have hx := x.isLt
  simp only [List.mem_range] at ha hb
  simp only [BitVec.toNat_ofNat] at this
  omega

end Sys2Proof.Machine
end

