-- ==== Sys2Proof/Laws/Drawing.lean ====
section
/-! SUPPORT. The laws of the display (00_scope.md R5) and of one visit of the draw loop (43_sprite_drawing.md R111). -/

namespace Sys2Proof.Machine

/-- Inside the grid the pixel is the element of its row. -/
theorem Display.isPixelSet_eq (d : Display) (c r : Nat) (hc : c < 64) (hr : r < 32) :
    d.isPixelSet c r = d.rows[r][c] := by
  simp [Display.isPixelSet, hc, hr]

/-- Setting a pixel is read back there and nowhere else. -/
theorem Display.isPixelSet_setPixel (d : Display) (c r c' r' : Nat) (b : Bool) (hc : c < 64) (hr : r < 32) :
    (d.setPixel c r b).isPixelSet c' r' = if c' = c ∧ r' = r then b else d.isPixelSet c' r' := by
  simp only [Display.setPixel, Display.isPixelSet, hr, Vector.getElem?_eq_getElem]
  by_cases h1 : r' = r
  · subst h1
    by_cases h2 : c' = c
    · subst h2; simp [hc, hr]
    · have h3 : ¬ c = c' := fun e => h2 e.symm
      simp [hr, h2, h3]
  · have h3 : ¬ r = r' := fun e => h1 e.symm
    simp [h1, h3]

/-- A cleared display has no set pixel (43_sprite_drawing.md R110). -/
theorem Display.isPixelSet_clear (c r : Nat) : Display.clear.isPixelSet c r = false := by
  simp only [Display.isPixelSet, Display.clear, Vector.getElem?_replicate]
  split <;> rename_i h
  · split at h
    · obtain rfl := Option.some.inj h
      rw [Vector.getElem?_replicate]; split <;> rfl
    · simp at h
  · rfl

/-- Two displays with equal pixels are equal. -/
theorem Display.ext_pixels {d e : Display} (h : ∀ c < 64, ∀ r < 32, d.isPixelSet c r = e.isPixelSet c r) : d = e := by
  obtain ⟨dr⟩ := d
  obtain ⟨er⟩ := e
  congr 1
  apply Vector.ext
  intro r hr
  apply Vector.ext
  intro c hc
  have := h c hc r hr
  rwa [Display.isPixelSet_eq _ _ _ hc hr, Display.isPixelSet_eq _ _ _ hc hr] at this

/-- Drawing one set sprite bit turns over its pixel and no other. -/
theorem isPixelSet_drawPixel (c r c' r' : Nat) (acc : Display × Bool) (hc : c < 64) (hr : r < 32) :
    (drawPixel c r acc).1.isPixelSet c' r' = (acc.1.isPixelSet c' r' ^^ (decide (c' = c) && decide (r' = r))) := by
  unfold drawPixel
  split <;> rename_i hp <;> simp only [Display.isPixelSet_setPixel _ _ _ _ _ _ hc hr] <;>
    by_cases h1 : c' = c <;> by_cases h2 : r' = r <;> simp_all

/-- Drawing one set sprite bit sets the flag exactly when its pixel was set. -/
theorem drawPixel_flag (c r : Nat) (acc : Display × Bool) :
    (drawPixel c r acc).2 = (acc.2 || acc.1.isPixelSet c r) := by
  unfold drawPixel
  split <;> simp_all

/-- The bit of a sprite row `b` that falls on column `c'` after the first `k` of its columns have been visited. -/
def rowBit (b : Byte) (ox k c' : Nat) : Bool :=
  decide (ox ≤ c' ∧ c' < ox + k ∧ c' < 64) && b.getLsbD (7 - (c' - ox))

/-- After `k` columns of a row, its pixels are turned over where the row's bits are set, and the flag tells whether one of
them was set before. -/
theorem drawColumns_spec (b : Byte) (ox row : Nat) (hr : row < 32) (acc : Display × Bool) (k : Nat) :
    (∀ c' r', ((List.range k).foldl (drawColumn b ox row) acc).1.isPixelSet c' r' =
      (acc.1.isPixelSet c' r' ^^ (decide (r' = row) && rowBit b ox k c'))) ∧
    (((List.range k).foldl (drawColumn b ox row) acc).2 = true ↔
      acc.2 = true ∨ ∃ c', rowBit b ox k c' = true ∧ acc.1.isPixelSet c' row = true) := by
  induction k with
  | zero =>
    have : ∀ c', rowBit b ox 0 c' = false := by intro c'; simp [rowBit]; omega
    simp [this]
  | succ k ih =>
    obtain ⟨ihp, ihf⟩ := ih
    rw [List.range_succ, List.foldl_append, List.foldl_cons, List.foldl_nil]
    generalize hacc : (List.range k).foldl (drawColumn b ox row) acc = acc' at ihp ihf
    have step : ∀ c', rowBit b ox (k + 1) c' =
        (rowBit b ox k c' || (decide (c' = ox + k ∧ c' < 64) && b.getLsbD (7 - k))) := by
      intro c'
      by_cases hc : c' = ox + k
      · subst hc; simp [rowBit]
      · have : (ox ≤ c' ∧ c' < ox + (k + 1) ∧ c' < 64) ↔ (ox ≤ c' ∧ c' < ox + k ∧ c' < 64) := by omega
        simp [rowBit, hc, this]
    have new : ∀ c', c' = ox + k → rowBit b ox k c' = false := by intro c' h; simp [rowBit]; omega
    unfold drawColumn
    by_cases h64 : 64 ≤ ox + k
    · have : ∀ c', rowBit b ox (k + 1) c' = rowBit b ox k c' := by
        intro c'; rw [step]; simp; omega
      simp only [h64, if_true, this]
      exact ⟨ihp, ihf⟩
    · by_cases hb : b.getLsbD (7 - k) = true
      · simp only [h64, if_false, hb, if_true]
        constructor
        · intro c' r'
          rw [isPixelSet_drawPixel _ _ _ _ _ (by omega) hr, ihp, step]
          by_cases h1 : c' = ox + k <;> by_cases h2 : r' = row
          · have h3 : c' < 64 := by omega
            simp [h1, h2, hb, new (ox + k) rfl, show ox + k < 64 by omega]
          all_goals simp [h1, h2]
        · rw [drawPixel_flag, Bool.or_eq_true, ihf, ihp, new (ox + k) rfl]
          constructor
          · rintro ((h | ⟨c', h1, h2⟩) | h)
            · exact .inl h
            · exact .inr ⟨c', by simp [step, h1], h2⟩
            · exact .inr ⟨ox + k, by simp [step, hb]; omega, by simpa using h⟩
          · rintro (h | ⟨c', h1, h2⟩)
            · exact .inl (.inl h)
            · rw [step] at h1
              by_cases h3 : c' = ox + k
              · subst h3; exact .inr (by simpa using h2)
              · exact .inl (.inr ⟨c', by simpa [h3] using h1, h2⟩)
      · have : ∀ c', rowBit b ox (k + 1) c' = rowBit b ox k c' := by
          intro c'; rw [step]; simp [hb]
        simp only [h64, if_false, hb, this]
        exact ⟨ihp, ihf⟩

/-- Within the grid, the bits of `n + 1` rows are those of `n` rows and those of row `n`. -/
theorem spriteBit_succ (m : Memory) (base ox oy n c r : Nat) (hc : c < 64) :
    spriteBit m base ox oy (n + 1) c r =
      (spriteBit m base ox oy n c r || (decide (r = oy + n) && rowBit (m.read (base + n)) ox 8 c)) := by
  by_cases hr : r = oy + n
  · subst hr
    simp [spriteBit, rowBit, hc]
  · have : (ox ≤ c ∧ c < ox + 8 ∧ oy ≤ r ∧ r < oy + (n + 1)) ↔ (ox ≤ c ∧ c < ox + 8 ∧ oy ≤ r ∧ r < oy + n) := by omega
    simp [spriteBit, hr, this]

/-- A whole draw turns over the pixels of the grid on which the sprite's set bits fall, and its flag tells whether one of
them was set before (43_sprite_drawing.md R111). -/
theorem drawSprite_spec (m : Memory) (base ox oy n : Nat) (d : Display) :
    (∀ c < 64, ∀ r < 32, (drawSprite m base ox oy n d).1.isPixelSet c r =
      (d.isPixelSet c r ^^ spriteBit m base ox oy n c r)) ∧
    ((drawSprite m base ox oy n d).2 = true ↔
      ∃ c < 64, ∃ r < 32, spriteBit m base ox oy n c r = true ∧ d.isPixelSet c r = true) := by
  unfold drawSprite
  induction n with
  | zero =>
    have : ∀ c r, spriteBit m base ox oy 0 c r = false := by intro c r; simp [spriteBit]
    simp [this]
  | succ n ih =>
    obtain ⟨ihp, ihf⟩ := ih
    rw [List.range_succ, List.foldl_append, List.foldl_cons, List.foldl_nil]
    generalize hacc : (List.range n).foldl (drawRow m base ox oy) (d, false) = acc at ihp ihf
    unfold drawRow
    by_cases h32 : 32 ≤ oy + n
    · have same : ∀ c < 64, ∀ r < 32, spriteBit m base ox oy (n + 1) c r = spriteBit m base ox oy n c r := by
        intro c hc r hr
        rw [spriteBit_succ _ _ _ _ _ _ _ hc]; simp; omega
      simp only [h32, if_true]
      refine ⟨fun c hc r hr => by rw [ihp c hc r hr, same c hc r hr], ihf.trans ?_⟩
      constructor
      · rintro ⟨c, hc, r, hr, h1, h2⟩; exact ⟨c, hc, r, hr, by rw [same c hc r hr, h1], h2⟩
      · rintro ⟨c, hc, r, hr, h1, h2⟩; exact ⟨c, hc, r, hr, by rw [← same c hc r hr, h1], h2⟩
    · simp only [h32, if_false]
      have hrow : oy + n < 32 := by omega
      have old : ∀ c, spriteBit m base ox oy n c (oy + n) = false := by intro c; simp [spriteBit]
      obtain ⟨cp, cf⟩ := drawColumns_spec (m.read (base + n)) ox (oy + n) hrow acc 8
      constructor
      · intro c hc r hr
        rw [cp, ihp c hc r hr, spriteBit_succ _ _ _ _ _ _ _ hc]
        by_cases h : r = oy + n
        · subst h; simp [old]
        · simp [h]
      · rw [cf, ihf]
        constructor
        · rintro (⟨c, hc, r, hr, h1, h2⟩ | ⟨c, h1, h2⟩)
          · exact ⟨c, hc, r, hr, by simp [spriteBit_succ _ _ _ _ _ _ _ hc, h1], h2⟩
          · have hc : c < 64 := by
              simp only [rowBit, Bool.and_eq_true, decide_eq_true_eq] at h1
              exact h1.1.2.2
            refine ⟨c, hc, oy + n, hrow, by simp [spriteBit_succ _ _ _ _ _ _ _ hc, h1], ?_⟩
            rw [ihp c hc _ hrow, old] at h2
            simpa using h2
        · rintro ⟨c, hc, r, hr, h1, h2⟩
          rw [spriteBit_succ _ _ _ _ _ _ _ hc, Bool.or_eq_true] at h1
          rcases h1 with h1 | h1
          · exact .inl ⟨c, hc, r, hr, h1, h2⟩
          · simp only [Bool.and_eq_true, decide_eq_true_eq] at h1
            obtain ⟨rfl, h1⟩ := h1
            refine .inr ⟨c, h1, ?_⟩
            rw [ihp c hc _ hrow, old]
            simpa using h2

/-- A draw writes the display and the general registers only. -/
theorem State.setDrawn_eq (s : State) (r : Display × Bool) :
    s.setDrawn r = { s with regs := (s.setV 15 (flagByte r.2)).regs, fb := r.1 } := rfl

/-- VF is the flag after a draw, every other register is unchanged. -/
theorem State.V_setDrawn (s : State) (r : Display × Bool) (z : Nibble) :
    (s.setDrawn r).V z = if z = 15 then flagByte r.2 else s.V z := by
  rw [State.setDrawn, State.V_setV, State.setFb_V]

end Sys2Proof.Machine
end

