-- ==== Sys2Proof/Laws/Memory.lean ====
section
/-! SUPPORT. The laws of main memory: what a byte reads as after a write (20_memory.md R31, R32), that every memory operation
keeps the canonical form, and what a block store does. -/

namespace Sys2Proof.Machine

/-! Cells. -/

theorem readCells_putCell_same (a : Nat) (b : Byte) (rest : List Host.Cell) (h : ∀ c ∈ rest, c.1 ≠ a) :
    readCells (putCell a b rest) a = b := by
  unfold putCell
  split
  · rename_i hb
    subst hb
    induction rest with
    | nil => rfl
    | cons c rest ih =>
      have hc := h c (by simp)
      have hr : ∀ c ∈ rest, c.1 ≠ a := fun d hd => h d (by simp [hd])
      simp [readCells, hc, ih hr]
  · simp [readCells]

theorem readCells_putCell_ne (a a' : Nat) (b : Byte) (rest : List Host.Cell) (h : a' ≠ a) :
    readCells (putCell a b rest) a' = readCells rest a' := by
  unfold putCell
  split
  · rfl
  · simp [readCells, Ne.symm h]

/-- A write is read back at its address, in sorted cells. -/
theorem readCells_writeCells_same (cells : List Host.Cell) (a : Nat) (b : Byte)
    (h : cells.Pairwise (fun p q => p.1 < q.1)) : readCells (writeCells cells a b) a = b := by
  induction cells with
  | nil => exact readCells_putCell_same _ _ _ (by simp)
  | cons c rest ih =>
    obtain ⟨k, v⟩ := c
    rw [List.pairwise_cons] at h
    simp only [writeCells]
    split
    · rename_i hk
      apply readCells_putCell_same
      intro d hd
      rcases List.mem_cons.1 hd with rfl | hd
      · exact (ne_of_lt hk).symm
      · have := h.1 d hd; simp only at this; omega
    · split
      · rename_i hk hak
        apply readCells_putCell_same
        intro d hd
        have := h.1 d hd; simp only at this; omega
      · rename_i hk hak
        simp [readCells, Ne.symm hak, ih h.2]

/-- A write leaves every other address, in any cells. -/
theorem readCells_writeCells_ne (cells : List Host.Cell) (a a' : Nat) (b : Byte) (h : a' ≠ a) :
    readCells (writeCells cells a b) a' = readCells cells a' := by
  induction cells with
  | nil => exact readCells_putCell_ne _ _ _ _ h
  | cons c rest ih =>
    obtain ⟨k, v⟩ := c
    simp only [writeCells]
    split
    · exact readCells_putCell_ne _ _ _ _ h
    · split
      · rename_i hak
        rw [readCells_putCell_ne _ _ _ _ h]
        simp [readCells, ← hak, Ne.symm h]
      · simp [readCells, ih]

/-- Every cell after a write is an old cell or the one written. -/
theorem mem_writeCells {cells : List Host.Cell} {a : Nat} {b : Byte} {c : Host.Cell} (h : c ∈ writeCells cells a b) :
    c ∈ cells ∨ (c = (a, b) ∧ b ≠ Config.memReset a) := by
  have put : ∀ rest : List Host.Cell, c ∈ putCell a b rest → c ∈ rest ∨ (c = (a, b) ∧ b ≠ Config.memReset a) := by
    intro rest hc
    unfold putCell at hc
    split at hc
    · exact .inl hc
    · rcases List.mem_cons.1 hc with rfl | hc
      · exact .inr ⟨rfl, ‹_›⟩
      · exact .inl hc
  induction cells with
  | nil => exact put _ h
  | cons d rest ih =>
    obtain ⟨k, v⟩ := d
    simp only [writeCells] at h
    split at h
    · exact put _ h
    · split at h
      · rcases put _ h with h | h
        · exact .inl (by simp [h])
        · exact .inr h
      · rcases List.mem_cons.1 h with rfl | h
        · exact .inl (by simp)
        · rcases ih h with h | h
          · exact .inl (by simp [h])
          · exact .inr h

/-- A write keeps the cells strictly rising. -/
theorem pairwise_writeCells (cells : List Host.Cell) (a : Nat) (b : Byte)
    (h : cells.Pairwise (fun p q => p.1 < q.1)) : (writeCells cells a b).Pairwise (fun p q => p.1 < q.1) := by
  have put : ∀ rest : List Host.Cell, rest.Pairwise (fun p q => p.1 < q.1) → (∀ c ∈ rest, a < c.1) →
      (putCell a b rest).Pairwise (fun p q => p.1 < q.1) := by
    intro rest hr ha
    unfold putCell
    split
    · exact hr
    · exact List.pairwise_cons.2 ⟨ha, hr⟩
  induction cells with
  | nil => exact put _ .nil (by simp)
  | cons d rest ih =>
    obtain ⟨k, v⟩ := d
    have h' := List.pairwise_cons.1 h
    simp only [writeCells]
    split
    · rename_i hk
      apply put _ h
      intro c hc
      rcases List.mem_cons.1 hc with rfl | hc
      · exact hk
      · have := h'.1 c hc; simp only at this; omega
    · split
      · rename_i hk hak
        apply put _ h'.2
        intro c hc
        have := h'.1 c hc; simp only at this; omega
      · rename_i hk hak
        refine List.pairwise_cons.2 ⟨?_, ih h'.2⟩
        intro c hc
        rcases mem_writeCells hc with hc | ⟨rfl, -⟩
        · exact h'.1 c hc
        · simp only; omega

/-! Memory. -/

/-- A byte write keeps the canonical form. -/
theorem Memory.wf_write (m : Memory) (a : Nat) (b : Byte) (h : m.wf) : (m.write a b).wf := by
  refine ⟨pairwise_writeCells _ _ _ h.1, ?_⟩
  intro c hc
  rcases mem_writeCells hc with hc | ⟨rfl, hb⟩
  · exact h.2 c hc
  · exact ⟨Nat.mod_lt _ (by decide), hb⟩

/-- A read after a write, at any two addresses (20_memory.md R31, R32). -/
theorem Memory.read_write (m : Memory) (a a' : Nat) (b : Byte) (h : m.wf) :
    (m.write a b).read a' = if a' % Config.memSize = a % Config.memSize then b else m.read a' := by
  unfold Memory.write Memory.read
  split
  · rename_i e; rw [e]; exact readCells_writeCells_same _ _ _ h.1
  · rename_i e; exact readCells_writeCells_ne _ _ _ _ e

/-- A write leaves every other address, whether or not memory is canonical. -/
theorem Memory.read_write_ne (m : Memory) (a a' : Nat) (b : Byte) (h : a' % Config.memSize ≠ a % Config.memSize) :
    (m.write a b).read a' = m.read a' := readCells_writeCells_ne _ _ _ _ h

/-- Addresses that are equal modulo 4096 read the same (20_memory.md R31). -/
theorem Memory.read_mod (m : Memory) (a : Nat) : m.read (a % Config.memSize) = m.read a := by
  simp [Memory.read]

/-! Block stores. -/

/-- A block store writes memory only. -/
theorem State.storeBytes_eq (s : State) (a : Nat) (bs : List Byte) :
    s.storeBytes a bs = s.setMem (s.storeBytes a bs).mem := by
  induction bs generalizing s a with
  | nil => rfl
  | cons b bs ih => rw [State.storeBytes, ih]; rfl

/-- What a block store makes of memory depends on memory alone. -/
theorem State.storeBytes_mem_congr {s t : State} (h : s.mem = t.mem) (a : Nat) (bs : List Byte) :
    (s.storeBytes a bs).mem = (t.storeBytes a bs).mem := by
  induction bs generalizing s t a with
  | nil => exact h
  | cons b bs ih => exact ih (by simp [h]) _

/-- A block store keeps the canonical form. -/
theorem State.wf_storeBytes (s : State) (a : Nat) (bs : List Byte) (h : s.mem.wf) : (s.storeBytes a bs).mem.wf := by
  induction bs generalizing s a with
  | nil => exact h
  | cons b bs ih => exact ih _ _ (Memory.wf_write _ _ _ h)

/-- Loading an image keeps the canonical form. -/
theorem State.wf_load (s : State) (image : List Byte) (h : s.mem.wf) : (s.load image).mem.wf := by
  unfold State.load; split
  · exact h
  · exact State.wf_storeBytes _ _ _ h

/-- Placing a word keeps the canonical form. -/
theorem State.wf_placeWord (s : State) (w : Word) (h : s.mem.wf) : (s.placeWord w).mem.wf := State.wf_storeBytes _ _ _ h

/-- A block store leaves every address outside its bytes. -/
theorem State.memRead_storeBytes_outside (s : State) (a : Nat) (bs : List Byte) (a' : Nat)
    (h : ∀ k < bs.length, a' % Config.memSize ≠ (a + k) % Config.memSize) :
    (s.storeBytes a bs).memRead a' = s.memRead a' := by
  induction bs generalizing s a with
  | nil => rfl
  | cons b bs ih =>
    rw [State.storeBytes, ih]
    · exact Memory.read_write_ne _ _ _ _ (by simpa using h 0 (by simp))
    · intro k hk
      have := h (k + 1) (by simpa using hk)
      simpa [Nat.add_assoc, Nat.add_comm 1 k] using this

/-- A block store no longer than memory puts its `k`-th byte at `a + k` (modulo 4096). -/
theorem State.memRead_storeBytes_inside (s : State) (a : Nat) (bs : List Byte) (hw : s.mem.wf)
    (hl : bs.length ≤ Config.memSize) (k : Nat) (hk : k < bs.length) :
    (s.storeBytes a bs).memRead (a + k) = bs[k] := by
  induction bs generalizing s a k with
  | nil => simp at hk
  | cons b bs ih =>
    rw [State.storeBytes]
    have hw' : (s.memWrite a b).mem.wf := Memory.wf_write _ _ _ hw
    cases k with
    | zero =>
      rw [State.memRead_storeBytes_outside]
      · simp [State.memRead, State.memWrite, State.setMem, Memory.read_write _ _ _ _ hw]
      · intro j hj
        simp only [List.length_cons] at hl
        simp only [Config.memSize] at *
        omega
    | succ k =>
      have := ih (s.memWrite a b) (a + 1) hw' (by simp only [List.length_cons] at hl; omega) k (by simpa using hk)
      simpa [Nat.add_assoc, Nat.add_comm 1 k] using this

/-! Reset. -/

/-- Reset with any parameters is the default reset but for the display and memory. -/
theorem State.resetWith_eq (p : Config.Parameters) :
    State.resetWith p = { State.reset with fb := ⟨p.fbReset⟩, mem := (State.resetWith p).mem } :=
  State.storeBytes_eq _ _ _

/-- Memory at reset is in canonical form. -/
theorem State.wf_reset : State.reset.mem.wf := ⟨.nil, by simp [State.reset]⟩

/-- Memory at reset is in canonical form, with any parameters. -/
theorem State.wf_resetWith (p : Config.Parameters) : (State.resetWith p).mem.wf :=
  State.wf_storeBytes _ _ _ State.wf_reset

/-- At reset the font region holds `FONT` (10_state.md R24). -/
theorem State.memRead_resetWith_font (p : Config.Parameters) (j : Nat) (h : j < 80) :
    (State.resetWith p).memRead (0x050 + j) = p.font[j] := by
  have := State.memRead_storeBytes_inside (State.reset.setFb ⟨p.fbReset⟩) Config.fontBase p.font.toList State.wf_reset
    (by simp [Config.memSize]) j (by simpa using h)
  exact this.trans (Vector.getElem_toList _)

/-- At reset every byte outside the font region is 0 (10_state.md R24, 20_memory.md R36). -/
theorem State.memRead_resetWith_zero (p : Config.Parameters) (a : Nat) (ha : a < 4096) (h : a < 0x050 ∨ 0x0A0 ≤ a) :
    (State.resetWith p).memRead a = 0 := by
  have out : (State.resetWith p).memRead a = State.reset.memRead a := by
    apply State.memRead_storeBytes_outside (State.reset.setFb ⟨p.fbReset⟩)
    intro k hk
    simp only [Vector.length_toList, Config.memSize, Config.fontBase] at *
    omega
  rw [out]
  refine if_neg ?_
  simp only [Config.memSize, Config.fontBase]
  omega

/-- The default parameters give the default reset: the unlisted font bytes are the default's. -/
theorem State.resetWith_defaults : State.resetWith Config.defaults = State.reset := by decide +kernel

end Sys2Proof.Machine
end

