-- ==== Sys2Proof/Laws/PerInstr.lean ====
section
/-! SUPPORT. For every instruction: its word has the fixed bits of its row of the opcode table (30_encoding.md R50). -/

namespace Sys2Proof.Laws

/-- The word of `i` is selected by its own row: `encode i & mask = match` (30_encoding.md R50). -/
def FixedBits.Statement (i : Instr) : Prop := encode i &&& i.mnemonic.mask = i.mnemonic.matchBits

theorem FixedBits.cls : FixedBits.Statement (.cls) := rfl
theorem FixedBits.ret : FixedBits.Statement (.ret) := rfl
theorem FixedBits.jp (nnn : Imm12) : FixedBits.Statement (.jp nnn) := (and_maskA _ _).trans rfl
theorem FixedBits.call (nnn : Imm12) : FixedBits.Statement (.call nnn) := (and_maskA _ _).trans rfl
theorem FixedBits.sei (x : Nibble) (nn : Byte) : FixedBits.Statement (.sei x nn) := (and_maskI _ _ _).trans rfl
theorem FixedBits.snei (x : Nibble) (nn : Byte) : FixedBits.Statement (.snei x nn) := (and_maskI _ _ _).trans rfl
theorem FixedBits.se (x y : Nibble) : FixedBits.Statement (.se x y) := (and_maskR _ _ _ _).trans rfl
theorem FixedBits.ldi (x : Nibble) (nn : Byte) : FixedBits.Statement (.ldi x nn) := (and_maskI _ _ _).trans rfl
theorem FixedBits.addi (x : Nibble) (nn : Byte) : FixedBits.Statement (.addi x nn) := (and_maskI _ _ _).trans rfl
theorem FixedBits.mov (x y : Nibble) : FixedBits.Statement (.mov x y) := (and_maskR _ _ _ _).trans rfl
theorem FixedBits.or (x y : Nibble) : FixedBits.Statement (.or x y) := (and_maskR _ _ _ _).trans rfl
theorem FixedBits.and (x y : Nibble) : FixedBits.Statement (.and x y) := (and_maskR _ _ _ _).trans rfl
theorem FixedBits.xor (x y : Nibble) : FixedBits.Statement (.xor x y) := (and_maskR _ _ _ _).trans rfl
theorem FixedBits.add (x y : Nibble) : FixedBits.Statement (.add x y) := (and_maskR _ _ _ _).trans rfl
theorem FixedBits.sub (x y : Nibble) : FixedBits.Statement (.sub x y) := (and_maskR _ _ _ _).trans rfl
theorem FixedBits.shr (x y : Nibble) : FixedBits.Statement (.shr x y) := (and_maskR _ _ _ _).trans rfl
theorem FixedBits.subn (x y : Nibble) : FixedBits.Statement (.subn x y) := (and_maskR _ _ _ _).trans rfl
theorem FixedBits.shl (x y : Nibble) : FixedBits.Statement (.shl x y) := (and_maskR _ _ _ _).trans rfl
theorem FixedBits.sne (x y : Nibble) : FixedBits.Statement (.sne x y) := (and_maskR _ _ _ _).trans rfl
theorem FixedBits.ldix (nnn : Imm12) : FixedBits.Statement (.ldix nnn) := (and_maskA _ _).trans rfl
theorem FixedBits.jpv0 (nnn : Imm12) : FixedBits.Statement (.jpv0 nnn) := (and_maskA _ _).trans rfl
theorem FixedBits.rnd (x : Nibble) (nn : Byte) : FixedBits.Statement (.rnd x nn) := (and_maskI _ _ _).trans rfl
theorem FixedBits.drw (x y n : Nibble) : FixedBits.Statement (.drw x y n) := (and_maskS _ _ _ _).trans rfl
theorem FixedBits.skp (x : Nibble) : FixedBits.Statement (.skp x) := (and_maskU _ _ _).trans rfl
theorem FixedBits.sknp (x : Nibble) : FixedBits.Statement (.sknp x) := (and_maskU _ _ _).trans rfl
theorem FixedBits.getdt (x : Nibble) : FixedBits.Statement (.getdt x) := (and_maskU _ _ _).trans rfl
theorem FixedBits.setdt (x : Nibble) : FixedBits.Statement (.setdt x) := (and_maskU _ _ _).trans rfl
theorem FixedBits.setst (x : Nibble) : FixedBits.Statement (.setst x) := (and_maskU _ _ _).trans rfl
theorem FixedBits.addix (x : Nibble) : FixedBits.Statement (.addix x) := (and_maskU _ _ _).trans rfl
theorem FixedBits.waitk (x : Nibble) : FixedBits.Statement (.waitk x) := (and_maskU _ _ _).trans rfl
theorem FixedBits.font (x : Nibble) : FixedBits.Statement (.font x) := (and_maskU _ _ _).trans rfl
theorem FixedBits.bcd (x : Nibble) : FixedBits.Statement (.bcd x) := (and_maskU _ _ _).trans rfl
theorem FixedBits.stm (x : Nibble) : FixedBits.Statement (.stm x) := (and_maskU _ _ _).trans rfl
theorem FixedBits.ldm (x : Nibble) : FixedBits.Statement (.ldm x) := (and_maskU _ _ _).trans rfl

end Sys2Proof.Laws
end

