-- ==== Sys2Proof/Laws/Timers.lean ====
section
/-! SUPPORT. The tick steps (60_exceptions.md R153, R154) and the gap after an action of the execute loop (R156): what they
write, and that the gap's counts are whole tick steps. -/

namespace Sys2Proof.Machine

theorem countDown_toNat (b : Byte) : (countDown b).toNat = b.toNat - 1 := by
  unfold countDown
  split
  · simp_all
  · rename_i h
    have : b.toNat ≠ 0 := fun e => h (BitVec.eq_of_toNat_eq (by simpa using e))
    have := b.isLt
    simp [BitVec.toNat_sub]; omega

theorem countDownBy_zero (k : Nat) : countDownBy 0 k = 0 := by
  induction k with
  | zero => rfl
  | succ k ih => exact ih

/-- The idle shortcut of `delayAfter` changes nothing: it is `k` ticks of the counter. -/
theorem delayAfter_eq (b : Byte) (k : Nat) : delayAfter b k = countDownBy b k := by
  unfold delayAfter
  split
  · rename_i h; rw [h, countDownBy_zero]
  · rfl

theorem soundBy_idle (k : Nat) : soundBy 0 .off k = (0, .off) := by
  induction k with
  | zero => rfl
  | succ k ih => exact ih

/-- The idle shortcut of `soundAfter` changes nothing: it is `k` ticks of the sound timer. -/
theorem soundAfter_eq (b : Byte) (t : Tone) (k : Nat) : soundAfter b t k = soundBy b t k := by
  unfold soundAfter
  split
  · rename_i h; rw [h.1, h.2, soundBy_idle]
  · rfl

/-- A delay tick writes `DT` only. -/
theorem State.delayTick_eq (s : State) : s.delayTick = s.setDt s.delayTick.dt := by
  unfold State.delayTick; split <;> rfl

/-- A sound tick writes `ST` and `TONE` only. -/
theorem State.soundTick_eq (s : State) : s.soundTick = (s.setSt s.soundTick.st).setTone s.soundTick.tone := by
  unfold State.soundTick; split <;> rfl

/-- A delay tick and a sound tick commute: their order does not matter (60_exceptions.md R155, R156). -/
theorem State.delayTick_soundTick (s : State) : s.delayTick.soundTick = s.soundTick.delayTick := by
  unfold State.delayTick State.soundTick
  by_cases h : s.mode = .halted
  · simp [h]
  · simp [h]; rfl

/-- The gap writes `DT`, `ST` and `TONE` only. -/
theorem State.ticks_eq (s : State) (d n : Nat) :
    s.ticks d n = ((s.setDt (s.ticks d n).dt).setSt (s.ticks d n).st).setTone (s.ticks d n).tone := by
  unfold State.ticks; split <;> rfl

/-- The gap with its counter writes `DT`, `ST`, `TONE` and the model's `draws` only. -/
theorem State.tickGap_eq (s : State) :
    s.tickGap = { s with dt := s.tickGap.dt, st := s.tickGap.st, tone := s.tickGap.tone, draws := s.tickGap.draws } := by
  unfold State.tickGap State.ticks
  split
  · rfl
  · split <;> rfl

@[simp] theorem State.tickGap_regs (s : State) : s.tickGap.regs = s.regs := by rw [State.tickGap_eq]
@[simp] theorem State.tickGap_idx (s : State) : s.tickGap.idx = s.idx := by rw [State.tickGap_eq]
@[simp] theorem State.tickGap_pc (s : State) : s.tickGap.pc = s.pc := by rw [State.tickGap_eq]
@[simp] theorem State.tickGap_stack (s : State) : s.tickGap.stack = s.stack := by rw [State.tickGap_eq]
@[simp] theorem State.tickGap_mode (s : State) : s.tickGap.mode = s.mode := by rw [State.tickGap_eq]
@[simp] theorem State.tickGap_fault (s : State) : s.tickGap.fault = s.fault := by rw [State.tickGap_eq]
@[simp] theorem State.tickGap_mem (s : State) : s.tickGap.mem = s.mem := by rw [State.tickGap_eq]
@[simp] theorem State.tickGap_fb (s : State) : s.tickGap.fb = s.fb := by rw [State.tickGap_eq]
@[simp] theorem State.tickGap_V (s : State) (z : Nibble) : s.tickGap.V z = s.V z := by
  unfold State.V; simp
@[simp] theorem State.tickGap_memRead (s : State) (a : Nat) : s.tickGap.memRead a = s.memRead a := by
  unfold State.memRead; simp

end Sys2Proof.Machine
end

