-- ==== Sys2Proof/Laws/Step.lean ====
section
/-! SUPPORT. What a step can do, said once: claims over steps start from `step_next_cases`. -/

namespace Sys2Proof.Machine

/-- A step that answers a next state is an action of the execute loop, from RUN an instruction or an illegal word, from
WAIT_KEY a look at the key wait, and then the gap's ticks. -/
theorem step_next_cases {s t : State} (h : step s = .next t) :
    (s.mode = .run ∧ ∃ i u, decode s.fetchWord = .ok i ∧ exec i s.advancePc = .next u ∧ t = u.tickGap) ∨
    (s.mode = .run ∧ (∃ e, decode s.fetchWord = .error e) ∧
      t = (s.advancePc.raise (.decodeFailure s.fetchWord s.pc)).tickGap) ∨
    (∃ x, s.mode = .waitKey x ∧ t = (s.nextDraw.deliverKey x s.keyEvent).tickGap) := by
  unfold step at h
  split at h
  · rename_i hm
    unfold instructionStep at h
    split at h
    · rename_i i hi
      cases he : exec i s.advancePc with
      | next u => rw [he] at h; exact .inl ⟨hm, i, u, hi, he, (Host.Outcome.next.inj h).symm⟩
      | fault r => rw [he] at h; cases h
      | refused r => rw [he] at h; cases h
    · rename_i e he
      exact .inr (.inl ⟨hm, ⟨e, he⟩, (Host.Outcome.next.inj h).symm⟩)
  · rename_i x hm
    exact .inr (.inr ⟨x, hm, (Host.Outcome.next.inj h).symm⟩)
  · cases h

/-- Delivering a key writes one register and the mode, or nothing. -/
theorem State.deliverKey_cases (s : State) (x : Nibble) (e : Option Nibble) :
    (e = none ∧ s.deliverKey x e = s) ∨
    (∃ k, e = some k ∧ s.deliverKey x e = (s.setV x (keyByte k)).setMode .run) := by
  cases e with
  | none => exact .inl ⟨rfl, rfl⟩
  | some k => exact .inr ⟨k, rfl, rfl⟩

end Sys2Proof.Machine
end

