-- ==== Sys2Proof/Tests/Slice0.lean ====
section
/-! SUPPORT. Tests of single operations, with the expected results of spec/95_test_vectors.md (S and T numbers) and of the
rules' own examples, and a witness for the hypotheses of every statement. -/

namespace Sys2Proof.Tests

open Sys2Proof.Machine

/-! Helpers. -/

/-- The next state of an outcome, if it is one. -/
def next? : Host.Outcome State Fault Refusal → Option State
  | .next s => some s
  | .fault _ => none
  | .refused _ => none

/-- One step with the word `w` placed at `PC`, as a vector of 95_test_vectors.md takes it. -/
def fetched (w : Nat) (s : State) : Option State := next? (step (s.withFetchWord 16 w))

/-- The reset state, the start of every vector. -/
def r0 : State := State.reset

/-- The set pixels of the top left 8 columns by 2 rows, by row. -/
def corner (s : State) : List (List Bool) :=
  (List.range 2).map fun r => (List.range 8).map fun c => s.fb.isPixelSet c r

/-! Well-formedness: an ill-formed term for each check, which the check refuses (30_encoding.md R52, R55). -/

theorem test_illegal_words_refused :
    wordWellFormed 0x0000 = false ∧ wordWellFormed 0x5121 = false ∧ wordWellFormed 0x8128 = false ∧
    wordWellFormed 0x9121 = false ∧ wordWellFormed 0xE19F = false ∧ wordWellFormed 0xF10B = false := by decide

theorem test_legal_words_accepted :
    wordWellFormed 0x00E0 = true ∧ wordWellFormed 0x5FF0 = true ∧ wordWellFormed 0x8FFE = true ∧
    wordWellFormed 0x9FF0 = true ∧ wordWellFormed 0xEFA1 = true ∧ wordWellFormed 0xFF65 = true := by decide

theorem test_source_lines_refused :
    (SourceLine.mk .cls [0]).wellFormed = false ∧ (SourceLine.mk .jp [4096]).wellFormed = false ∧
    (SourceLine.mk .ldi [16, 0]).wellFormed = false ∧ (SourceLine.mk .ldi [0, 256]).wellFormed = false ∧
    (SourceLine.mk .add [16, 0]).wellFormed = false ∧ (SourceLine.mk .add [0, 16]).wellFormed = false ∧
    (SourceLine.mk .drw [0, 0, 16]).wellFormed = false ∧ (SourceLine.mk .drw [0, 16, 0]).wellFormed = false ∧
    (SourceLine.mk .drw [16, 0, 0]).wellFormed = false ∧ (SourceLine.mk .bcd [16]).wellFormed = false ∧
    (SourceLine.mk .ret [1]).wellFormed = false ∧ (SourceLine.mk .bcd []).wellFormed = false := by decide

/-- Lines of 95_test_vectors.md P1, P2 and P3 with their words. -/
theorem test_source_lines_assemble :
    (SourceLine.mk .ldi [1, 5]).assemble = some 0x6105 ∧ (SourceLine.mk .add [0, 1]).assemble = some 0x8014 ∧
    (SourceLine.mk .call [0x20A]).assemble = some 0x220A ∧ (SourceLine.mk .bcd [0]).assemble = some 0xF033 ∧
    (SourceLine.mk .drw [2, 3, 2]).assemble = some 0xD232 ∧ (SourceLine.mk .cls []).assemble = some 0x00E0 := by decide

/-! Decoding: every constructor from a word written out from its pattern (30_encoding.md R50), by form. -/

theorem test_decode_form_Z : decode 0x00E0 = .ok .cls ∧ decode 0x00EE = .ok .ret := ⟨rfl, rfl⟩

theorem test_decode_form_A :
    decode 0x1ABC = .ok (.jp 0xABC) ∧ decode 0x220A = .ok (.call 0x20A) ∧ decode 0xA123 = .ok (.ldix 0x123) ∧
    decode 0xB300 = .ok (.jpv0 0x300) := ⟨rfl, rfl, rfl, rfl⟩

theorem test_decode_form_I :
    decode 0x3105 = .ok (.sei 1 0x05) ∧ decode 0x4205 = .ok (.snei 2 0x05) ∧ decode 0x6A2C = .ok (.ldi 10 0x2C) ∧
    decode 0x71FF = .ok (.addi 1 0xFF) ∧ decode 0xC30F = .ok (.rnd 3 0x0F) := ⟨rfl, rfl, rfl, rfl, rfl⟩

theorem test_decode_form_R :
    decode 0x5230 = .ok (.se 2 3) ∧ decode 0x8EF0 = .ok (.mov 14 15) ∧ decode 0x8011 = .ok (.or 0 1) ∧
    decode 0x8012 = .ok (.and 0 1) ∧ decode 0x8013 = .ok (.xor 0 1) ∧ decode 0x8124 = .ok (.add 1 2) ∧
    decode 0x8125 = .ok (.sub 1 2) ∧ decode 0x8016 = .ok (.shr 0 1) ∧ decode 0x8237 = .ok (.subn 2 3) ∧
    decode 0x801E = .ok (.shl 0 1) ∧ decode 0x9230 = .ok (.sne 2 3) :=
  ⟨rfl, rfl, rfl, rfl, rfl, rfl, rfl, rfl, rfl, rfl, rfl⟩

theorem test_decode_form_S : decode 0xD235 = .ok (.drw 2 3 5) := rfl

theorem test_decode_form_U :
    decode 0xE49E = .ok (.skp 4) ∧ decode 0xE4A1 = .ok (.sknp 4) ∧ decode 0xF107 = .ok (.getdt 1) ∧
    decode 0xF015 = .ok (.setdt 0) ∧ decode 0xF518 = .ok (.setst 5) ∧ decode 0xF11E = .ok (.addix 1) ∧
    decode 0xF30A = .ok (.waitk 3) ∧ decode 0xFA29 = .ok (.font 10) ∧ decode 0xF133 = .ok (.bcd 1) ∧
    decode 0xF155 = .ok (.stm 1) ∧ decode 0xF265 = .ok (.ldm 2) :=
  ⟨rfl, rfl, rfl, rfl, rfl, rfl, rfl, rfl, rfl, rfl, rfl⟩

/-- Bytes in memory order: the first is the high one, the rest is given back, one byte is too few (20_memory.md R30). -/
theorem test_decode_bytes :
    decodeBytes [0x60, 0x12, 0xA2] = .ok (.ldi 0 0x12, [0xA2]) ∧ decodeBytes [0x60] = .error .truncated ∧
    decodeBytes [] = .error .truncated ∧ decodeTableWord 16 0xD235 = some (.drw 2 3 5) ∧
    decodeTableWord 16 0x0000 = none := ⟨rfl, rfl, rfl, rfl, rfl⟩

/-- Illegal words of each group are rejected by the group's name (95_test_vectors.md §2.7). -/
theorem test_decode_rejects_by_name :
    decode 0x0FFF = .error (.illegalGroup0 0x0FFF) ∧ decode 0x512F = .error (.illegalGroup5 0x512F) ∧
    decode 0x812D = .error (.illegalGroup8 0x812D) ∧ decode 0x9121 = .error (.illegalGroup9 0x9121) ∧
    decode 0xE1A0 = .error (.illegalGroupE 0xE1A0) ∧ decode 0xF175 = .error (.illegalGroupF 0xF175) :=
  ⟨rfl, rfl, rfl, rfl, rfl, rfl⟩

/-! Arithmetic (95_test_vectors.md §2.1). -/

theorem test_ldi_T1 : (fetched 0x6A42 r0).map (fun t => (t.V 10, t.pc)) = some (0x42, 0x202) := by decide
theorem test_addi_T3 :
    (fetched 0x7105 ((r0.setV 1 0xFE).setV 15 0x77)).map (fun t => (t.V 1, t.V 15)) = some (0x03, 0x77) := by decide
theorem test_addi_T4 : (fetched 0x7F01 (r0.setV 15 0xFF)).map (fun t => t.V 15) = some 0x00 := by decide
theorem test_mov_T6 : (fetched 0x81F0 (r0.setV 15 0x33)).map (fun t => (t.V 1, t.V 15)) = some (0x33, 0x33) := by decide
theorem test_or_T7 :
    (fetched 0x8121 (((r0.setV 1 0xF0).setV 2 0x0F).setV 15 5)).map (fun t => (t.V 1, t.V 15)) = some (0xFF, 5) := by decide
theorem test_and_T8 :
    (fetched 0x8122 (((r0.setV 1 0xF0).setV 2 0x0F).setV 15 5)).map (fun t => (t.V 1, t.V 15)) = some (0x00, 5) := by decide
theorem test_xor_T9 :
    (fetched 0x8123 (((r0.setV 1 0xFF).setV 2 0x0F).setV 15 5)).map (fun t => (t.V 1, t.V 15)) = some (0xF0, 5) := by decide
theorem test_xor_S9 : (fetched 0x8113 (r0.setV 1 0x5A)).map (fun t => t.V 1) = some 0x00 := by decide
theorem test_add_S2 :
    (fetched 0x8124 ((r0.setV 1 0xFF).setV 2 0x01)).map (fun t => (t.V 1, t.V 15)) = some (0x00, 1) := by decide
theorem test_add_T13 : (fetched 0x8F14 ((r0.setV 15 0x02).setV 1 0x03)).map (fun t => t.V 15) = some 0 := by decide
theorem test_sub_S3 :
    (fetched 0x8125 ((r0.setV 1 0x03).setV 2 0x05)).map (fun t => (t.V 1, t.V 15)) = some (0xFE, 0) := by decide
theorem test_sub_T16 :
    (fetched 0x8125 ((r0.setV 1 7).setV 2 7)).map (fun t => (t.V 1, t.V 15)) = some (0x00, 0) := by decide
theorem test_shr_T21 :
    (fetched 0x8126 ((r0.setV 1 0xAA).setV 2 0x05)).map (fun t => (t.V 1, t.V 2, t.V 15)) = some (0x02, 0x05, 1) := by decide
theorem test_shr_T25 :
    (fetched 0x81F6 ((r0.setV 1 0x55).setV 15 0x03)).map (fun t => (t.V 1, t.V 15)) = some (0x01, 1) := by decide
theorem test_subn_T28 :
    (fetched 0x8127 ((r0.setV 1 0x03).setV 2 0x05)).map (fun t => (t.V 1, t.V 15)) = some (0x02, 1) := by decide
theorem test_subn_T32 :
    (fetched 0x81F7 ((r0.setV 1 0x01).setV 15 0x09)).map (fun t => (t.V 1, t.V 15)) = some (0x08, 1) := by decide
theorem test_shl_T33 :
    (fetched 0x812E ((r0.setV 1 0x11).setV 2 0x81)).map (fun t => (t.V 1, t.V 15)) = some (0x02, 1) := by decide
theorem test_shl_T38 :
    (fetched 0x81FE (r0.setV 15 0xC0)).map (fun t => (t.V 1, t.V 15)) = some (0x80, 1) := by decide
/-- T39: with the random byte 0xA7. -/
theorem test_rnd_T39 : (rndWith 0xA7 1 0x0F (r0.setV 1 0xFF)).V 1 = 0x07 := by decide
/-- T40: with the mask 0, whatever the random byte. -/
theorem test_rnd_T40 : ∀ r : Byte, (rndWith r 1 0x00 (r0.setV 1 0xFF)).V 1 = 0x00 := by
  intro r; simp [rndWith, State.V_setV_same]

/-! Control flow (95_test_vectors.md §2.2). -/

theorem test_jp_T51 : (fetched 0x1201 r0).map (·.pc) = some 0x0201 := by decide
theorem test_jp_T74 : (fetched 0x1234 (r0.setPc 0x1200)).map (·.pc) = some 0x0234 := by decide
theorem test_call_T54 :
    (fetched 0x2300 (r0.setStack (List.replicate 15 0x202))).map (fun t => (t.stack.length, t.stack.getLast?, t.pc)) =
      some (16, some 0x202, 0x300) := by decide
theorem test_call_T55 :
    (fetched 0x2300 (r0.setStack (List.replicate 16 0x202))).map (fun t => (t.stack.length, t.pc, t.mode, t.fault)) =
      some (16, 0x202, .halted, some (.stackOverflow 0x2300 0x200)) := by decide
theorem test_ret_T56 :
    (fetched 0x00EE (r0.setStack [0x206, 0x30A])).map (fun t => (t.stack, t.pc)) = some ([0x206], 0x30A) := by decide
theorem test_ret_T57 :
    (fetched 0x00EE r0).map (fun t => (t.stack, t.pc, t.mode, t.fault)) =
      some ([], 0x202, .halted, some (.stackUnderflow 0x00EE 0x200)) := by decide
theorem test_jpv0_T59 : (fetched 0xBFFF (r0.setV 0 0xFF)).map (·.pc) = some 0x10FE := by decide
theorem test_jpv0_T60 : (fetched 0xB200 (r0.setV 3 0x77)).map (·.pc) = some 0x0200 := by decide
theorem test_sei_T61 : (fetched 0x3105 (r0.setV 1 5)).map (·.pc) = some 0x204 := by decide
theorem test_sei_T73 : (fetched 0x3000 (r0.setPc 0xFFFE)).map (·.pc) = some 0x0002 := by decide
theorem test_snei_T63 : (fetched 0x4105 (r0.setV 1 5)).map (·.pc) = some 0x202 := by decide
theorem test_snei_T64 : (fetched 0x4105 (r0.setV 1 6)).map (·.pc) = some 0x204 := by decide
theorem test_se_T65 : (fetched 0x5120 ((r0.setV 1 8).setV 2 8)).map (·.pc) = some 0x204 := by decide
theorem test_se_T66 : (fetched 0x5120 ((r0.setV 1 8).setV 2 9)).map (·.pc) = some 0x202 := by decide
theorem test_sne_T68 : (fetched 0x9120 ((r0.setV 1 8).setV 2 8)).map (·.pc) = some 0x202 := by decide
theorem test_sne_T69 : (fetched 0x9120 ((r0.setV 1 8).setV 2 9)).map (·.pc) = some 0x204 := by decide
/-- T71: the fetch wraps from 0xFFF to 0x000, `PC` does not. -/
theorem test_fetch_T71 :
    (fetched 0x6142 (r0.setPc 0x0FFF)).map (fun t => (t.V 1, t.pc, t.memRead 0xFFF, t.memRead 0x000)) =
      some (0x42, 0x1001, 0x61, 0x42) := by decide

/-! Memory transfer (95_test_vectors.md §2.3). -/

theorem test_ldix_T81 : (fetched 0xAFFF r0).map (·.idx) = some 0xFFF := by decide
theorem test_addix_T82 :
    (fetched 0xF11E ((r0.setIdx 0xFFE).setV 1 1)).map (fun t => (t.idx, t.V 15)) = some (0xFFF, 0) := by decide
theorem test_addix_T86 :
    (fetched 0xFF1E ((r0.setIdx 0xFF8).setV 15 0x10)).map (fun t => (t.idx, t.V 15)) = some (0x008, 1) := by decide
theorem test_font_T88 : (fetched 0xF129 (r0.setV 1 0xFA)).map (·.idx) = some 0x082 := by decide
theorem test_font_T89 : (fetched 0xF129 (r0.setV 1 0x0F)).map (·.idx) = some 0x09B := by decide
theorem test_bcd_S4 :
    (fetched 0xF133 ((r0.setV 1 239).setIdx 0x300)).map
      (fun t => (t.memRead 0x300, t.memRead 0x301, t.memRead 0x302, t.idx)) = some (2, 3, 9, 0x300) := by decide
theorem test_bcd_T93 :
    (fetched 0xF133 ((r0.setV 1 123).setIdx 0xFFE)).map
      (fun t => (t.memRead 0xFFE, t.memRead 0xFFF, t.memRead 0x000)) = some (1, 2, 3) := by decide
theorem test_stm_T94 :
    (fetched 0xF255 (((((r0.setV 0 1).setV 1 2).setV 2 3).setV 3 4).setIdx 0x300)).map
      (fun t => (t.memRead 0x300, t.memRead 0x301, t.memRead 0x302, t.memRead 0x303, t.idx)) =
      some (1, 2, 3, 0, 0x300) := by decide
theorem test_stm_T96 :
    (fetched 0xF155 (((r0.setV 0 0x11).setV 1 0x22).setIdx 0xFFF)).map (fun t => (t.memRead 0xFFF, t.memRead 0x000)) =
      some (0x11, 0x22) := by decide
theorem test_ldm_T98 :
    (fetched 0xF265 (((r0.storeBytes 0x300 [7, 8, 9, 10]).setV 3 0x55).setIdx 0x300)).map
      (fun t => (t.V 0, t.V 1, t.V 2, t.V 3, t.idx)) = some (7, 8, 9, 0x55, 0x300) := by decide
theorem test_ldm_T100 :
    (fetched 0xF165 (((r0.memWrite 0xFFF 0x77).memWrite 0x000 0x88).setIdx 0xFFF)).map (fun t => (t.V 0, t.V 1)) =
      some (0x77, 0x88) := by decide

/-! The display (95_test_vectors.md §2.4). -/

/-- A state with the sprite bytes `bs` at 0x300 and `I` there. -/
def sprite (bs : List Byte) : State := (r0.storeBytes 0x300 bs).setIdx 0x300

theorem test_cls_T110 :
    (fetched 0x00E0 ((r0.setV 15 1).setFb ((r0.fb.setPixel 0 0 true).setPixel 63 31 true))).map
      (fun t => (decide (t.fb = Display.clear), t.V 15)) = some (true, 1) := by decide
/-- T112 and T113: the origin wraps to (6, 31), the second row is clipped; nothing reappears at the other edges. -/
theorem test_drw_T113 :
    (fetched 0xD012 (((sprite [0xFF, 0x81]).setV 0 70).setV 1 95)).map
      (fun t => [t.fb.isPixelSet 5 31, t.fb.isPixelSet 6 31, t.fb.isPixelSet 13 31, t.fb.isPixelSet 14 31,
        t.fb.isPixelSet 6 0, t.fb.isPixelSet 6 30]) = some [false, true, true, false, false, false] := by decide +kernel
/-- T115: one pixel set, one cleared, a collision. -/
theorem test_drw_T115 :
    (fetched 0xD011 ((sprite [0xC0]).setFb (r0.fb.setPixel 1 0 true))).map
      (fun t => (t.fb.isPixelSet 0 0, t.fb.isPixelSet 1 0, t.V 15)) = some (true, false, 1) := by decide
/-- T118: the origin comes from the old VF. -/
theorem test_drw_T118 :
    (fetched 0xDFF1 ((sprite [0x80]).setV 15 0x45)).map (fun t => (t.fb.isPixelSet 5 5, t.V 15)) = some (true, 0) := by
  decide
/-- T121: glyph 0 of the default FONT (log 2), its first two rows. -/
theorem test_drw_T121 :
    (fetched 0xD015 (r0.setIdx 0x050)).map corner =
      some [[true, true, true, true, false, false, false, false], [true, false, false, true, false, false, false, false]] := by
  decide +kernel

/-! Keys (95_test_vectors.md §2.5). -/

/-- T130 to T133: the key asked for is `V[X] & 0xF`, and `PC` follows the answer, whichever it is. -/
theorem test_skp_T130 : (next? (exec (.skp 1) ((r0.setV 1 0x1A).setPc 0x202))).map (·.pc) =
    some (if Config.keyHeld 0 0xA then 0x204 else 0x202) := by
  have k : ((r0.setV 1 0x1A).setPc 0x202).lowNibble 1 = 0xA := by decide
  simp only [exec, execSkp, State.skipIf_eq, k]
  rfl
theorem test_sknp_T132 : (next? (exec (.sknp 1) ((r0.setV 1 0x1A).setPc 0x202))).map (·.pc) =
    some (if Config.keyHeld 0 0xA then 0x202 else 0x204) := by
  have k : ((r0.setV 1 0x1A).setPc 0x202).lowNibble 1 = 0xA := by decide
  simp only [exec, execSknp, State.skipIf_eq, k, State.keyHeld]
  cases h : Config.keyHeld ((r0.setV 1 0x1A).setPc 0x202).draws 0xA <;> rw [show Config.keyHeld 0 0xA = _ from h] <;> rfl
theorem test_waitk_T134 :
    (fetched 0xF10A (r0.setV 1 0xEE)).map (fun t => (t.mode, t.pc, t.V 1)) = some (.waitKey 1, 0x202, 0xEE) := by decide
/-- T136: the key event. -/
theorem test_waitk_T136 :
    let t := (r0.setMode (.waitKey 1)).deliverKey 1 (some 7)
    (t.V 1, t.mode, t.pc) = (0x07, .run, 0x200) := by decide

/-! Timers (95_test_vectors.md §2.6). -/

theorem test_getdt_T140 : (next? (exec (.getdt 1) (r0.setDt 0x2A))).map (fun t => (t.V 1, t.dt)) = some (0x2A, 0x2A) := by
  decide
theorem test_setdt_T141 : (next? (exec (.setdt 1) (r0.setV 1 0xFF))).map (·.dt) = some 0xFF := by decide
theorem test_setst_T143 : (next? (exec (.setst 1) (r0.setV 1 2))).map (fun t => (t.st, t.tone)) = some (2, .off) := by decide
theorem test_soundTicks_T144 :
    ((List.range 5).map fun k => ((r0.setSt 2).ticks 0 k).st) = [2, 1, 0, 0, 0] ∧
    ((List.range 5).map fun k => ((r0.setSt 2).ticks 0 k).tone) = [.off, .on, .on, .off, .off] := by decide
theorem test_delayTicks_T145 : ((List.range 6).map fun k => ((r0.setDt 3).ticks k 0).dt) = [3, 2, 1, 0, 0, 0] := by decide
/-- T135: ticks go on during the key wait. -/
theorem test_ticks_T135 :
    let t := (((r0.setMode (.waitKey 1)).setDt 3).setSt 1).delayTick.soundTick
    (t.dt, t.st, t.tone, t.mode) = (2, 0, .on, .waitKey 1) := by decide

/-! Faults, reset and load (95_test_vectors.md §2.7, §2.8, P5). -/

theorem test_illegal_T150 :
    (fetched 0x5121 ((r0.setV 1 1).setV 2 1)).map (fun t => (t.pc, t.mode, t.fault)) =
      some (0x202, .halted, some (.decodeFailure 0x5121 0x200)) := by decide
theorem test_empty_image_T160 :
    (next? (step (State.boot Config.defaults []))).map (fun t => (t.pc, t.mode, t.fault)) =
      some (0x202, .halted, some (.decodeFailure 0x0000 0x200)) := by decide
theorem test_one_byte_image_T163 : (next? (step (State.boot Config.defaults [0x12]))).map (·.pc) = some 0x200 := by decide
theorem test_reset_memory_T164 :
    r0.memRead 0x04F = 0 ∧ r0.memRead 0x050 = 0xF0 ∧ r0.memRead 0x09B = 0xF0 ∧ r0.memRead 0x09F = 0x80 ∧
    r0.memRead 0x0A0 = 0 ∧ r0.memRead 0x1FF = 0 ∧ r0.memRead 0x1050 = 0xF0 := by decide
/-- Another `FONT` stands at 0x050 to 0x09F and nowhere else (70_reset_and_hazards.md R171, step 2). -/
theorem test_reset_with_another_font :
    let s := State.resetWith { Config.defaults with font := Vector.replicate 80 0xAA }
    (s.memRead 0x04F, s.memRead 0x050, s.memRead 0x09F, s.memRead 0x0A0) = (0, 0xAA, 0xAA, 0) := by decide +kernel
/-- Writing what an unlisted address reads as removes its cell, so equal memories are equal data. -/
theorem test_memory_canonical :
    ((r0.memWrite 0x300 7).memWrite 0x300 0).mem = r0.mem ∧ (r0.memWrite 0x050 0xF0).mem = r0.mem ∧
    ((r0.memWrite 0x301 1).memWrite 0x1300 2).mem = ((r0.memWrite 0x300 2).memWrite 0x301 1).mem := by decide
/-- P6: a store into the instruction stream is seen by the next fetch. -/
theorem test_fetch_coherence_P6 :
    (((r0.storeBytes 0x206 [0x00, 0x08]).memWrite 0x206 0x12).setPc 0x206).fetchWord = 0x1208 := by decide

/-! Witnesses: a concrete state and operands that meet the hypotheses of each statement that has some. -/

/-- The reset state with the word of `LDI VA, 0x2C` at `PC`. -/
def ldiState : State := r0.placeWord 0x6A2C

/-- A halted state. -/
def haltedState : State := r0.raise (.decodeFailure 0x0000 0x200)

/-- A state that waits for a key. -/
def waitState : State := r0.setMode (.waitKey 1)

theorem ldiState_steps : step ldiState = .next ((ldiState.advancePc.setV 10 0x2C).tickGap) := rfl

theorem witness_EncodeOfDecode : decode 0xD235 = .ok (.drw 2 3 5) := by decide

theorem witness_AssembledLineDecodes :
    (SourceLine.mk .ldi [1, 255]).wellFormed = true ∧ (SourceLine.mk .ldi [1, 256]).wellFormed = false := by decide

theorem witness_StepRunsDecodedInstruction :
    ldiState.mode = .run ∧
    decode (ldiState.memRead ldiState.pc.toNat ++ ldiState.memRead (ldiState.pc.toNat + 1)) = .ok (.ldi 10 0x2C) :=
  ⟨rfl, rfl⟩

theorem witness_IllegalWordHalts :
    r0.mode = .run ∧ r0.fault = none ∧
    decode (r0.memRead r0.pc.toNat ++ r0.memRead (r0.pc.toNat + 1)) = .error (.illegalGroup0 0x0000) := ⟨rfl, rfl, rfl⟩

theorem witness_OnlyHaltedEngineStops : haltedState.mode = .halted ∧ r0.mode ≠ .halted := by decide

theorem witness_KeyWaitEndsWithKeyEvent : waitState.mode = .waitKey 1 := rfl

theorem witness_DelayTickCountsDown :
    ((r0.setDt 1).mode ≠ .halted ∧ 0 < (r0.setDt 1).dt.toNat) ∧ (r0.mode ≠ .halted ∧ r0.dt.toNat = 0) ∧
    haltedState.mode = .halted := by decide

theorem witness_SoundTickDrivesTone :
    ((r0.setSt 1).mode ≠ .halted ∧ 0 < (r0.setSt 1).st.toNat) ∧ (r0.mode ≠ .halted ∧ r0.st.toNat = 0) ∧
    haltedState.mode = .halted := by decide

theorem witness_DelayTimerReachesZeroAndStays : (r0.setDt 255).mode ≠ .halted := by decide

/-- The last tick that plays and the first that does not. -/
theorem witness_ToneLastsSoundTimerTicks :
    (r0.setSt 2).mode ≠ .halted ∧ (1 ≤ 2 ∧ 2 ≤ (r0.setSt 2).st.toNat) ∧ (1 ≤ 3 ∧ ¬ 3 ≤ (r0.setSt 2).st.toNat) := by decide

theorem witness_GapIsWholeTickSteps : r0.mode ≠ .halted ∧ haltedState.mode = .halted := by decide

theorem witness_TimersRiseOnlyByTheirInstruction :
    (∃ t, step ldiState = .next t) ∧ (∀ x, decode ldiState.fetchWord ≠ .ok (.setdt x)) ∧
    (∀ x, decode ldiState.fetchWord ≠ .ok (.setst x)) := by
  have d : decode ldiState.fetchWord = .ok (.ldi 10 0x2C) := rfl
  exact ⟨⟨_, ldiState_steps⟩, by simp [d], by simp [d]⟩

theorem witness_ResetValues : 0x04F < 0x050 ∧ 0x0A0 ≤ 0xFFF ∧ 0xFFF < 4096 ∧ 79 < 80 := by decide

theorem witness_LoadPlacesImageOrFails :
    (List.replicate 3584 (1 : Byte)).length ≤ 3584 ∧ 3583 < (List.replicate 3584 (1 : Byte)).length ∧
    (0x1FF < 4096 ∧ 0x1FF < 0x200) ∧ (0x201 < 4096 ∧ 0x200 + [(0x12 : Byte)].length ≤ 0x201) ∧
    3584 < (List.replicate 3585 (1 : Byte)).length := by
  rw [List.length_replicate, List.length_replicate]; decide

theorem witness_StepKeepsInvariant : ldiState.Inv ∧ step ldiState = .next ((ldiState.advancePc.setV 10 0x2C).tickGap) :=
  ⟨⟨by decide, by decide, by decide, by decide⟩, ldiState_steps⟩

theorem witness_MemWriteSetsOneByte : (r0.memWrite 0x300 7).mem.wf ∧ 0xFFF % 4096 ≠ 0x1000 % 4096 := by decide

theorem witness_CanonicalMemoriesAreEqual :
    (r0.memWrite 0x300 7).mem.wf ∧ ((r0.memWrite 0x300 9).memWrite 0x1300 7).mem.wf ∧
    ∀ a, a < 4096 → (r0.memWrite 0x300 7).mem.read a = ((r0.memWrite 0x300 9).memWrite 0x1300 7).mem.read a := by
  have e : (r0.memWrite 0x300 7).mem = ((r0.memWrite 0x300 9).memWrite 0x1300 7).mem := by decide
  exact ⟨by decide, by decide, fun a _ => by rw [e]⟩

theorem witness_FetchSeesStore : ldiState.mem.wf := by decide

/-- For every statement in terms of `WritesRegThenFlag`: a destination that is not VF, and a third register. -/
theorem witness_WritesRegThenFlag : (1 : Nibble) ≠ 15 ∧ (2 : Nibble) ≠ 1 ∧ (2 : Nibble) ≠ 15 := by decide

/-- For the bit clauses and the equal-operand clauses of `LogicLeavesFlagAlone`. -/
theorem witness_LogicLeavesFlagAlone : 7 < 8 ∧ ((r0.setV 1 0x5A).setV 2 0x5A).V 1 = ((r0.setV 1 0x5A).setV 2 0x5A).V 2 := by
  decide

theorem witness_RetPopsNewestAddress : (r0.setStack [0x206, 0x30A]).stack = [0x206] ++ [0x30A] := rfl

theorem witness_CallPushesAdvancedPc : (r0.setStack (List.replicate 15 0x202)).stack.length ≠ 16 := by decide

theorem witness_StackFaultsHaltPrecisely :
    (r0.fault = none ∧ r0.stack = []) ∧
    ((r0.setStack (List.replicate 16 0x202)).fault = none ∧
      (r0.setStack (List.replicate 16 0x202)).stack.length = 16) := by decide

theorem witness_CallThenRetReturns :
    r0.stack.length ≠ 16 ∧ exec (.call 0x300) r0 = .next ((r0.push r0.pc).setPc 0x300) ∧
    (((r0.push r0.pc).setPc 0x300).setV 3 9).stack = ((r0.push r0.pc).setPc 0x300).stack := ⟨by decide, rfl, rfl⟩

/-- A skip taken and one not taken, for each of the four conditional skips, and a nonzero `N`. -/
theorem witness_Skips :
    ((r0.setV 1 5).V 1 = 5 ∧ ¬ (r0.setV 1 6).V 1 = 5) ∧ ((r0.setV 1 6).V 1 ≠ 5 ∧ ¬ (r0.setV 1 5).V 1 ≠ 5) ∧
    (r0.V 1 = r0.V 2 ∧ ¬ (r0.setV 1 5).V 1 = (r0.setV 1 5).V 2) ∧
    ((r0.setV 1 5).V 1 ≠ (r0.setV 1 5).V 2 ∧ ¬ r0.V 1 ≠ r0.V 2) ∧ (1 : Nibble) ≠ 0 := by decide

/-- The block's last byte and the bytes beside it, at the top of memory. -/
theorem witness_BcdStoresThreeDigits :
    (r0.setIdx 0xFFE).mem.wf ∧ (∀ k, k < 3 → 0xFFD % 4096 ≠ (r0.setIdx 0xFFE).dataAddr k) ∧
    (∀ k, k < 3 → 0x001 % 4096 ≠ (r0.setIdx 0xFFE).dataAddr k) := by decide

theorem witness_StmStoresBlock :
    (r0.setIdx 0xFFF).mem.wf ∧ (1 : Nibble).toNat ≤ (1 : Nibble).toNat ∧
    (∀ k, k ≤ (1 : Nibble).toNat → 0x001 % 4096 ≠ (r0.setIdx 0xFFF).dataAddr k) := by decide

theorem witness_LdmLoadsBlock : (2 : Nibble).toNat ≤ (2 : Nibble).toNat ∧ (2 : Nibble).toNat < (3 : Nibble).toNat := by decide

theorem witness_ClsClearsEveryPixel : 63 < 64 ∧ 31 < 32 := by decide

/-- A draw that meets a set pixel, and one on a clear display that does not. -/
theorem witness_DrwTurnsOverSpritePixels :
    (∃ c r, c < 64 ∧ r < 32 ∧ ((sprite [0x80]).setFb (r0.fb.setPixel 0 0 true)).fb.isPixelSet c r = true ∧
      spriteBit (sprite [0x80]).mem (sprite [0x80]).idx.toNat 0 0 1 c r = true) ∧
    ¬ (∃ c r, c < 64 ∧ r < 32 ∧ (Display.clear).isPixelSet c r = true ∧
      spriteBit (sprite [0x80]).mem (sprite [0x80]).idx.toNat 0 0 1 c r = true) := by
  refine ⟨⟨0, 0, by decide⟩, ?_⟩
  rintro ⟨c, r, -, -, h, -⟩
  rw [Display.isPixelSet_clear] at h
  cases h

/-- The state after the first draw serves as the state of the second; the sprite has a set bit inside the grid and its first
draw reports 0; a blank sprite has none. -/
theorem witness_DrawingTwiceRestoresDisplay :
    ∃ t, exec (.drw 0 1 1) (sprite [0x80]) = .next t ∧ t.fb = t.fb ∧ t.idx = (sprite [0x80]).idx ∧
      t.V 0 = (sprite [0x80]).V 0 ∧ t.V 1 = (sprite [0x80]).V 1 ∧
      (∀ k, k < (1 : Nibble).toNat → t.memRead ((sprite [0x80]).idx.toNat + k) =
        (sprite [0x80]).memRead ((sprite [0x80]).idx.toNat + k)) ∧
      t.V 15 = 0 ∧
      (∃ c r, c < 64 ∧ r < 32 ∧ spriteBit (sprite [0x80]).mem (sprite [0x80]).idx.toNat 0 0 1 c r = true) ∧
      (∀ c r, c < 64 → r < 32 → spriteBit r0.mem 0x300 0 0 0 c r = false) :=
  ⟨_, rfl, rfl, rfl, by decide, by decide, fun _ _ => rfl, by decide, ⟨0, 0, by decide⟩, fun c r _ _ => by
    simp [spriteBit]⟩

theorem witness_OnlyStackFaultsHalt :
    r0.mode ≠ .halted ∧ exec .ret r0 = .next (r0.raise (.stackUnderflow 0x00EE (r0.pc - 2))) ∧
    (r0.raise (.stackUnderflow 0x00EE (r0.pc - 2))).mode = .halted := ⟨by decide, rfl, rfl⟩

theorem witness_RegistersChangeOnlyByTable :
    exec (.ldi 3 7) r0 = .next (r0.setV 3 7) ∧ (r0.setV 3 7).V 3 ≠ r0.V 3 := ⟨rfl, by decide⟩

theorem witness_FlagWritersLeaveZeroOrOne :
    writesFlag (.add 1 2) ∧ exec (.add 1 2) r0 = .next (r0.setVThenFlag 1 (r0.V 1 + r0.V 2) (addFlag (r0.V 1) (r0.V 2))) :=
  ⟨trivial, rfl⟩

/-- An instruction that changes each element: memory, the display, the stack, `I`, `DT`, `ST`. -/
theorem witness_EachStateElementHasItsWriters :
    (∃ t, exec (.stm 0) (r0.setV 0 7) = .next t ∧ t.mem ≠ (r0.setV 0 7).mem) ∧
    (∃ t, exec .cls (r0.setFb (r0.fb.setPixel 0 0 true)) = .next t ∧ t.fb ≠ (r0.setFb (r0.fb.setPixel 0 0 true)).fb) ∧
    (∃ t, exec (.call 0x300) r0 = .next t ∧ t.stack ≠ r0.stack) ∧
    (∃ t, exec (.ldix 0x300) r0 = .next t ∧ t.idx ≠ r0.idx) ∧
    (∃ t, exec (.setdt 0) (r0.setV 0 7) = .next t ∧ t.dt ≠ (r0.setV 0 7).dt) ∧
    (∃ t, exec (.setst 0) (r0.setV 0 7) = .next t ∧ t.st ≠ (r0.setV 0 7).st) :=
  ⟨⟨_, rfl, by decide⟩, ⟨_, rfl, by decide +kernel⟩, ⟨_, rfl, by decide⟩, ⟨_, rfl, by decide⟩, ⟨_, rfl, by decide⟩,
    ⟨_, rfl, by decide⟩⟩

theorem witness_SoundStateIsUnobservable : ∃ t, step ldiState = .next t := ⟨_, ldiState_steps⟩

theorem witness_DisplayIsSeenOnlyByDraw :
    (∃ t, step ldiState = .next t) ∧ ∀ x y n, decode ldiState.fetchWord ≠ .ok (.drw x y n) := by
  have d : decode ldiState.fetchWord = .ok (.ldi 10 0x2C) := rfl
  exact ⟨⟨_, ldiState_steps⟩, by simp [d]⟩

/-- T52: a jump to itself. -/
theorem witness_SettledProgramStaysSettled : (r0.placeWord 0x1200).Settled := ⟨rfl, 0x200, by decide, rfl⟩

end Sys2Proof.Tests
end

section
/-! PROOFS. The inversion and introduction rules that the whole-machine statements share: what RET and CALL answer, what a
step answers from its action, what the gap does. -/

namespace Sys2Proof.Machine

variable {s t : State}

/-! RET and CALL, one rule per branch and one for both. -/

theorem exec_ret_of_empty (h : s.stack = []) : exec .ret s = .next (s.raise (.stackUnderflow (encode .ret) s.pc0)) := by
  simp [exec, execRet, h]

theorem exec_ret_of_getLast? {a : Word} (h : s.stack.getLast? = some a) :
    exec .ret s = .next ((s.setStack s.stack.dropLast).setPc a) := by
  simp [exec, execRet, h]

theorem exec_call_of_full (nnn : Imm12) (h : s.stack.length = Config.stackDepth) :
    exec (.call nnn) s = .next (s.raise (.stackOverflow (encode (.call nnn)) s.pc0)) := if_pos h

theorem exec_call_of_not_full (nnn : Imm12) (h : s.stack.length ≠ Config.stackDepth) :
    exec (.call nnn) s = .next ((s.push s.pc).setPc (imm16 nnn)) := if_neg h

/-- RET raises StackUnderflow on an empty stack and pops the newest address else (41_control_flow.md R80). -/
theorem exec_ret_next_cases (h : exec .ret s = .next t) :
    (s.stack = [] ∧ t = s.raise (.stackUnderflow (encode .ret) s.pc0)) ∨
    ∃ a, s.stack.getLast? = some a ∧ t = (s.setStack s.stack.dropLast).setPc a := by
  cases hl : s.stack.getLast? with
  | none =>
    have he := List.getLast?_eq_none_iff.mp hl
    exact .inl ⟨he, Host.Outcome.next.inj (h.symm.trans (exec_ret_of_empty he))⟩
  | some a => exact .inr ⟨a, rfl, Host.Outcome.next.inj (h.symm.trans (exec_ret_of_getLast? hl))⟩

/-- CALL raises StackOverflow at depth 16 and pushes the advanced `PC` else (41_control_flow.md R82). -/
theorem exec_call_next_cases {nnn : Imm12} (h : exec (.call nnn) s = .next t) :
    (s.stack.length = Config.stackDepth ∧ t = s.raise (.stackOverflow (encode (.call nnn)) s.pc0)) ∨
    (s.stack.length ≠ Config.stackDepth ∧ t = (s.push s.pc).setPc (imm16 nnn)) := by
  by_cases hf : s.stack.length = Config.stackDepth
  · exact .inl ⟨hf, Host.Outcome.next.inj (h.symm.trans (exec_call_of_full nnn hf))⟩
  · exact .inr ⟨hf, Host.Outcome.next.inj (h.symm.trans (exec_call_of_not_full nnn hf))⟩

/-! The step from its action: the converse of `step_next_cases`. -/

theorem step_of_exec {i : Instr} (hm : s.mode = .run) (hd : decode s.fetchWord = .ok i)
    (he : exec i s.advancePc = .next t) : step s = .next t.tickGap := by
  simp [step, hm, instructionStep, hd, he, afterTicks]

theorem step_of_decode_error {e : DecodeError} (hm : s.mode = .run) (hd : decode s.fetchWord = .error e) :
    step s = .next (s.advancePc.raise (.decodeFailure s.fetchWord s.pc)).tickGap := by
  simp [step, hm, instructionStep, hd, afterTicks]

theorem step_of_waitKey {x : Nibble} (hm : s.mode = .waitKey x) :
    step s = .next (s.nextDraw.deliverKey x s.keyEvent).tickGap := by
  simp [step, hm, keyWaitStep, afterTicks]

/-! The gap, halted and running. -/

theorem State.tickGap_of_halted (h : s.mode = .halted) : s.tickGap = s := if_pos h

theorem State.tickGap_of_not_halted (h : s.mode ≠ .halted) :
    s.tickGap = { s with
      dt := delayAfter s.dt (Config.delayTicks s.draws)
      st := (soundAfter s.st s.tone (Config.soundTicks s.draws)).1
      tone := (soundAfter s.st s.tone (Config.soundTicks s.draws)).2
      draws := s.draws + 1 } :=
  (if_neg h).trans (if_neg h)

end Sys2Proof.Machine
end

section
/-! PROOFS. O21: the invariant, one rule per operation, then `exec`, then the step. -/

namespace Sys2Proof.Machine

variable {s t : State}

/-- The invariant reads memory, the stack, `I`, `MODE` and `FAULT` only. -/
theorem State.Inv.congr (h : s.Inv) (hmem : t.mem = s.mem) (hstack : t.stack = s.stack) (hidx : t.idx = s.idx)
    (hmode : t.mode = s.mode) (hfault : t.fault = s.fault) : t.Inv where
  memWf := hmem ▸ h.memWf
  stackBound := hstack ▸ h.stackBound
  idxBound := hidx ▸ h.idxBound
  faultHalts := by rw [hfault, hmode]; exact h.faultHalts

theorem State.Inv.setIdx (h : s.Inv) {w : Word} (hw : w.toNat < 4096) : (s.setIdx w).Inv :=
  ⟨h.memWf, h.stackBound, hw, h.faultHalts⟩

theorem State.Inv.setStack (h : s.Inv) {ws : List Word} (hw : ws.length ≤ Config.stackDepth) : (s.setStack ws).Inv :=
  ⟨h.memWf, hw, h.idxBound, h.faultHalts⟩

theorem State.Inv.setPc (h : s.Inv) (w : Word) : (s.setPc w).Inv := h.congr rfl rfl rfl rfl rfl

theorem State.Inv.setV (h : s.Inv) (x : Nibble) (b : Byte) : (s.setV x b).Inv := h.congr rfl rfl rfl rfl rfl

theorem State.Inv.nextDraw (h : s.Inv) : s.nextDraw.Inv := h.congr rfl rfl rfl rfl rfl

/-- A change of mode that neither enters nor leaves HALTED. -/
theorem State.Inv.setMode (h : s.Inv) {m : Mode} (hs : s.mode ≠ .halted) (hm : m ≠ .halted) : (s.setMode m).Inv :=
  ⟨h.memWf, h.stackBound, h.idxBound, h.faultHalts.trans (iff_of_false hs hm)⟩

/-- Raising records a fault and halts, whatever was recorded before (60_exceptions.md R145). -/
theorem State.Inv.raise (h : s.Inv) (r : FaultRecord) : (s.raise r).Inv :=
  ⟨h.memWf, h.stackBound, h.idxBound, iff_of_true (s.raise_fault_isSome r) rfl⟩

theorem State.Inv.storeBytes (h : s.Inv) (a : Nat) (bs : List Byte) : (s.storeBytes a bs).Inv := by
  have hw := s.wf_storeBytes a bs h.memWf
  rw [s.storeBytes_eq]
  exact ⟨hw, h.stackBound, h.idxBound, h.faultHalts⟩

theorem State.Inv.loadRegs (h : s.Inv) (a : Nat) (ks : List Nibble) : (s.loadRegs a ks).Inv := by
  rw [s.loadRegs_eq]
  exact h.congr rfl rfl rfl rfl rfl

theorem State.Inv.skipIf (h : s.Inv) (b : Bool) : (s.skipIf b).Inv := by
  rw [s.skipIf_eq]
  exact h.setPc _

theorem State.Inv.tickGap (h : s.Inv) : s.tickGap.Inv := by
  apply h.congr <;> simp

theorem State.Inv.deliverKey (h : s.Inv) (hs : s.mode ≠ .halted) (x : Nibble) (e : Option Nibble) :
    (s.deliverKey x e).Inv := by
  obtain ⟨-, he⟩ | ⟨k, -, he⟩ := s.deliverKey_cases x e <;> rw [he]
  · exact h
  · exact (h.setV x _).setMode hs (by decide)

theorem imm16_toNat_lt (nnn : Imm12) : (imm16 nnn).toNat < 4096 := by
  have := nnn.isLt
  simp [imm16]; omega

theorem glyphAddr_toNat_lt (k : Nibble) : (glyphAddr k).toNat < 4096 := by
  have := k.isLt
  rw [glyphAddr, BitVec.toNat_ofNat, Config.fontBase]
  exact (Nat.mod_le _ _).trans_lt (by omega)

theorem ofNat_mod_4096_toNat_lt (n : Nat) : (BitVec.ofNat 16 (n % 4096)).toNat < 4096 := by
  simp; omega

/-- Every instruction keeps the invariant of a state that has not halted. -/
theorem exec_keeps_inv {i : Instr} (h : s.Inv) (hm : s.mode ≠ .halted) (he : exec i s = .next t) : t.Inv := by
  cases i
  case ret =>
    obtain ⟨-, rfl⟩ | ⟨a, -, rfl⟩ := exec_ret_next_cases he
    · exact h.raise _
    · have hl : s.stack.dropLast.length ≤ Config.stackDepth := by
        have := h.stackBound
        rw [List.length_dropLast]; omega
      exact (h.setStack hl).setPc a
  case call nnn =>
    obtain ⟨-, rfl⟩ | ⟨hne, rfl⟩ := exec_call_next_cases he
    · exact h.raise _
    · have hl : (s.stack ++ [s.pc]).length ≤ Config.stackDepth := by
        have := h.stackBound
        rw [List.length_append, List.length_singleton]; omega
      exact (h.setStack hl).setPc _
  all_goals obtain rfl := Host.Outcome.next.inj he
  case ldix nnn => exact h.setIdx (imm16_toNat_lt nnn)
  case addix x => exact (h.setIdx (ofNat_mod_4096_toNat_lt _)).setV 15 _
  case font x => exact h.setIdx (glyphAddr_toNat_lt _)
  case bcd x => exact h.storeBytes _ _
  case stm x => exact h.storeBytes _ _
  case ldm x => exact h.loadRegs _ _
  case waitk x => exact h.setMode hm nofun
  case sei | snei | se | sne => exact h.skipIf _
  case skp | sknp => exact h.nextDraw.skipIf _
  -- The others write registers, `PC`, a timer or the display, which the invariant does not read.
  all_goals exact h.congr rfl rfl rfl rfl rfl

/-- Settles O21: each action of the execute loop keeps the invariant, and the gap does not touch it. -/
theorem stepKeepsInvariant : Obligations.StepKeepsInvariant := by
  intro s t h hstep
  have hadv : s.advancePc.Inv := h.setPc _
  obtain ⟨hm, i, u, -, he, rfl⟩ | ⟨-, -, rfl⟩ | ⟨x, hm, rfl⟩ := step_next_cases hstep
  · exact (exec_keeps_inv hadv (by simp [hm]) he).tickGap
  · exact (hadv.raise _).tickGap
  · exact (h.nextDraw.deliverKey (by simp [hm]) x _).tickGap

end Sys2Proof.Machine
end

section
/-! PROOFS. O58, O59: `ST` and the tone, and the display, are outputs. One simulation serves both: states that differ in
outputs alone take steps to states that differ in outputs alone. -/

namespace Sys2Proof.Machine

variable {s s' t : State} {sound display : Prop}

/-- `s` with other outputs: `ST`, `TONE` and `FB`. -/
def State.withOutputs (s : State) (b : Byte) (tone : Tone) (d : Display) : State :=
  { s with st := b, tone := tone, fb := d }

/-- `s'` differs from `s` in outputs alone: in `ST` and `TONE` only if `sound` holds, in the display only if `display` does. -/
structure DifferInOutputs (sound display : Prop) (s s' : State) : Prop where
  rest : s' = s.withOutputs s'.st s'.tone s'.fb
  soundSame : sound ∨ (s'.st = s.st ∧ s'.tone = s.tone)
  displaySame : display ∨ s'.fb = s.fb

theorem differInOutputs_sound_iff :
    DifferInOutputs True False s s' ↔ s' = { s with st := s'.st, tone := s'.tone } := by
  constructor
  · rintro ⟨hrest, -, hfalse | hfb⟩
    · exact hfalse.elim
    · rw [hfb] at hrest
      exact hrest
  · intro h
    have hfb : s'.fb = s.fb := by rw [h]
    exact ⟨by rw [hfb]; exact h, .inl trivial, .inr hfb⟩

theorem differInOutputs_display_iff : DifferInOutputs False True s s' ↔ s' = { s with fb := s'.fb } := by
  constructor
  · rintro ⟨hrest, hfalse | ⟨hst, htone⟩, -⟩
    · exact hfalse.elim
    · rw [hst, htone] at hrest
      exact hrest
  · intro h
    have hst : s'.st = s.st := by rw [h]
    have htone : s'.tone = s.tone := by rw [h]
    exact ⟨by rw [hst, htone]; exact h, .inr ⟨hst, htone⟩, .inl trivial⟩

/-! The operations keep the relation. -/

theorem DifferInOutputs.advancePc (h : DifferInOutputs sound display s s') :
    DifferInOutputs sound display s.advancePc s'.advancePc :=
  ⟨by rw [h.rest]; rfl, h.soundSame, h.displaySame⟩

theorem DifferInOutputs.nextDraw (h : DifferInOutputs sound display s s') :
    DifferInOutputs sound display s.nextDraw s'.nextDraw :=
  ⟨by rw [h.rest]; rfl, h.soundSame, h.displaySame⟩

theorem DifferInOutputs.raise (h : DifferInOutputs sound display s s') (r : FaultRecord) :
    DifferInOutputs sound display (s.raise r) (s'.raise r) :=
  ⟨by rw [h.rest]; rfl, h.soundSame, h.displaySame⟩

theorem DifferInOutputs.skipIf (h : DifferInOutputs sound display s s') (taken : Bool) :
    DifferInOutputs sound display (s.skipIf taken) (s'.skipIf taken) := by
  cases taken
  · exact h
  · exact ⟨by rw [h.rest]; rfl, h.soundSame, h.displaySame⟩

theorem DifferInOutputs.memWrite (h : DifferInOutputs sound display s s') (a : Nat) (b : Byte) :
    DifferInOutputs sound display (s.memWrite a b) (s'.memWrite a b) :=
  ⟨by rw [h.rest]; rfl, h.soundSame, h.displaySame⟩

theorem DifferInOutputs.setV_memRead (h : DifferInOutputs sound display s s') (k : Nibble) (a : Nat) :
    DifferInOutputs sound display (s.setV k (s.memRead a)) (s'.setV k (s'.memRead a)) :=
  ⟨by rw [h.rest]; rfl, h.soundSame, h.displaySame⟩

theorem DifferInOutputs.storeBytes (h : DifferInOutputs sound display s s') (a : Nat) (bs : List Byte) :
    DifferInOutputs sound display (s.storeBytes a bs) (s'.storeBytes a bs) := by
  induction bs generalizing s s' a with
  | nil => exact h
  | cons b bs ih => exact ih (h.memWrite a b) (a + 1)

theorem DifferInOutputs.loadRegs (h : DifferInOutputs sound display s s') (a : Nat) (ks : List Nibble) :
    DifferInOutputs sound display (s.loadRegs a ks) (s'.loadRegs a ks) := by
  induction ks generalizing s s' a with
  | nil => exact h
  | cons k ks ih => exact ih (h.setV_memRead k a) (a + 1)

theorem DifferInOutputs.deliverKey (h : DifferInOutputs sound display s s') (x : Nibble) (e : Option Nibble) :
    DifferInOutputs sound display (s.deliverKey x e) (s'.deliverKey x e) := by
  cases e
  · exact h
  · exact ⟨by rw [h.rest]; rfl, h.soundSame, h.displaySame⟩

/-- The gap's counts and the delay timer do not see the outputs; equal sound states stay equal. -/
theorem DifferInOutputs.tickGap (h : DifferInOutputs sound display s s') :
    DifferInOutputs sound display s.tickGap s'.tickGap := by
  have hmode : s'.mode = s.mode := by rw [h.rest]; rfl
  have hdraws : s'.draws = s.draws := by rw [h.rest]; rfl
  by_cases hm : s.mode = .halted
  · rwa [State.tickGap_of_halted hm, State.tickGap_of_halted (hmode.trans hm)]
  · rw [State.tickGap_of_not_halted hm, State.tickGap_of_not_halted (hmode ▸ hm)]
    refine ⟨by rw [h.rest]; rfl, ?_, h.displaySame⟩
    obtain hs | ⟨hst, htone⟩ := h.soundSame
    · exact .inl hs
    · exact .inr (by simp [hst, htone, hdraws])

/-- No instruction sees `ST` or `TONE`, and none but DXYN sees the display. -/
theorem exec_differInOutputs {i : Instr} (h : DifferInOutputs sound display s s')
    (hdraw : display → ∀ x y n, i ≠ .drw x y n) (he : exec i s = .next t) :
    ∃ t', exec i s' = .next t' ∧ DifferInOutputs sound display t t' := by
  obtain ⟨hrest, hs, hd⟩ := h
  generalize s'.st = b, s'.tone = tone, s'.fb = d at hrest hs hd
  subst hrest
  have h : DifferInOutputs sound display s (s.withOutputs b tone d) := ⟨rfl, hs, hd⟩
  cases i
  case ret =>
    obtain ⟨hnil, rfl⟩ | ⟨a, hlast, rfl⟩ := exec_ret_next_cases he
    · exact ⟨_, exec_ret_of_empty (s := s.withOutputs b tone d) hnil, rfl, hs, hd⟩
    · exact ⟨_, exec_ret_of_getLast? (s := s.withOutputs b tone d) hlast, rfl, hs, hd⟩
  case call nnn =>
    obtain ⟨hfull, rfl⟩ | ⟨hne, rfl⟩ := exec_call_next_cases he
    · exact ⟨_, exec_call_of_full (s := s.withOutputs b tone d) nnn hfull, rfl, hs, hd⟩
    · exact ⟨_, exec_call_of_not_full (s := s.withOutputs b tone d) nnn hne, rfl, hs, hd⟩
  all_goals obtain rfl := Host.Outcome.next.inj he
  case cls => exact ⟨_, rfl, rfl, hs, .inr rfl⟩
  case drw x y n =>
    obtain hseen | rfl := hd
    · exact absurd rfl (hdraw hseen x y n)
    · exact ⟨_, rfl, rfl, hs, .inr rfl⟩
  case setst => exact ⟨_, rfl, rfl, hs.imp_right fun ⟨_, htone⟩ => ⟨rfl, htone⟩, hd⟩
  case sei | snei | se | sne => exact ⟨_, rfl, h.skipIf _⟩
  case skp | sknp => exact ⟨_, rfl, h.nextDraw.skipIf _⟩
  case bcd | stm => exact ⟨_, rfl, h.storeBytes _ _⟩
  case ldm => exact ⟨_, rfl, h.loadRegs _ _⟩
  -- The others neither read nor write an output.
  all_goals exact ⟨_, rfl, rfl, hs, hd⟩

/-- A step keeps the relation, unless it runs DXYN where the display may differ. -/
theorem step_differInOutputs (h : DifferInOutputs sound display s s')
    (hdraw : display → s.mode = .run → ∀ x y n, decode s.fetchWord ≠ .ok (.drw x y n)) (hstep : step s = .next t) :
    ∃ t', step s' = .next t' ∧ DifferInOutputs sound display t t' := by
  have hmode : s'.mode = s.mode := by rw [h.rest]; rfl
  have hfetch : s'.fetchWord = s.fetchWord := by rw [h.rest]; rfl
  have hpc : s'.pc = s.pc := by rw [h.rest]; rfl
  have hkey : s'.keyEvent = s.keyEvent := by rw [h.rest]; rfl
  obtain ⟨hm, i, u, hd, he, rfl⟩ | ⟨hm, ⟨e, hd⟩, rfl⟩ | ⟨x, hm, rfl⟩ := step_next_cases hstep
  · have hi : display → ∀ x y n, i ≠ .drw x y n := by
      rintro hdisp x y n rfl
      exact hdraw hdisp hm x y n hd
    obtain ⟨u', he', hu⟩ := exec_differInOutputs h.advancePc hi he
    exact ⟨_, step_of_exec (hmode.trans hm) (hfetch ▸ hd) he', hu.tickGap⟩
  · refine ⟨_, step_of_decode_error (hmode.trans hm) (hfetch ▸ hd), ?_⟩
    rw [hfetch, hpc]
    exact (h.advancePc.raise _).tickGap
  · refine ⟨_, step_of_waitKey (hmode.trans hm), ?_⟩
    rw [hkey]
    exact (h.nextDraw.deliverKey x _).tickGap

/-- Settles O58: the step simulation with equal displays. -/
theorem soundStateIsUnobservable : Obligations.SoundStateIsUnobservable := by
  intro s t b tone hstep
  have h : DifferInOutputs True False s { s with st := b, tone := tone } := ⟨rfl, .inl trivial, .inr rfl⟩
  obtain ⟨t', hstep', ht⟩ := step_differInOutputs h False.elim hstep
  exact ⟨t', hstep', differInOutputs_sound_iff.mp ht⟩

/-- Settles O59: the step simulation with equal sound states. -/
theorem displayIsSeenOnlyByDraw : Obligations.DisplayIsSeenOnlyByDraw := by
  intro s t d hstep hdraw
  have h : DifferInOutputs False True s { s with fb := d } := ⟨rfl, .inr ⟨rfl, rfl⟩, .inl trivial⟩
  obtain ⟨t', hstep', ht⟩ := step_differInOutputs h (fun _ => hdraw) hstep
  exact ⟨t', hstep', differInOutputs_display_iff.mp ht⟩

end Sys2Proof.Machine
end

section
/-! PROOFS. O55, O56: which registers an instruction writes, and what it leaves in VF. -/

namespace Sys2Proof.Machine

variable {s t : State} {i : Instr}

/-- A register the table does not name for an instruction keeps its value (10_state.md R10). -/
theorem exec_V_of_not_mayWriteReg {z : Nibble} (he : exec i s = .next t) (hz : ¬ mayWriteReg i z) : t.V z = s.V z := by
  cases i
  case ret => obtain ⟨-, rfl⟩ | ⟨a, -, rfl⟩ := exec_ret_next_cases he <;> rfl
  case call => obtain ⟨-, rfl⟩ | ⟨-, rfl⟩ := exec_call_next_cases he <;> rfl
  all_goals obtain rfl := Host.Outcome.next.inj he
  case ldi | addi | mov | or | and | xor | getdt => exact s.V_setV_ne _ z _ hz
  case rnd => exact s.nextDraw.V_setV_ne _ z _ hz
  case add | sub | shr | subn | shl =>
    obtain ⟨hx, hf⟩ := not_or.mp hz
    rw [s.V_setVThenFlag, if_neg hf, if_neg hx]
  case drw => exact (s.V_setDrawn _ z).trans (if_neg hz)
  case addix => exact State.V_setV_ne _ _ z _ hz
  case ldm x => exact s.V_loadRegs_of_notMem _ _ z (mt (mem_blockRegs x z).mp hz)
  case sei | snei | se | sne | skp | sknp => rw [State.skipIf_eq]; rfl
  case bcd | stm => rw [s.storeBytes_eq]; rfl
  -- The others write no register.
  all_goals rfl

/-- Settles O55: the contrapositive of `exec_V_of_not_mayWriteReg`. -/
theorem registersChangeOnlyByTable : Obligations.RegistersChangeOnlyByTable :=
  fun _ _ _ _ he hne => by_contra fun hz => hne (exec_V_of_not_mayWriteReg he hz)

theorem flagByte_eq_zero_or_one (f : Bool) : flagByte f = 0 ∨ flagByte f = 1 := by
  cases f
  · exact .inl rfl
  · exact .inr rfl

/-- A flag writer leaves a flag in VF, whatever its result register is (10_state.md R11, 90_conflicts.md C1). -/
theorem exec_V_flag (hw : writesFlag i) (he : exec i s = .next t) : ∃ f, t.V 15 = flagByte f := by
  cases i
  case add | sub | shr | subn | shl =>
    obtain rfl := Host.Outcome.next.inj he
    exact ⟨_, (s.V_setVThenFlag _ 15 _ _).trans (if_pos rfl)⟩
  case drw =>
    obtain rfl := Host.Outcome.next.inj he
    exact ⟨_, (s.V_setDrawn _ 15).trans (if_pos rfl)⟩
  case addix =>
    obtain rfl := Host.Outcome.next.inj he
    exact ⟨_, State.V_setV_same _ 15 _⟩
  all_goals exact hw.elim

/-- Settles O56: what the flag writers leave in VF is a flag, and a flag is 0 or 1. -/
theorem flagWritersLeaveZeroOrOne : Obligations.FlagWritersLeaveZeroOrOne := by
  intro i s t hw he
  obtain ⟨f, hf⟩ := exec_V_flag hw he
  rw [hf]
  exact flagByte_eq_zero_or_one f

end Sys2Proof.Machine
end

section
/-! PROOFS. O22, O24, O57: a byte write, the fetch that sees it, and which instructions change each element of the state. -/

namespace Sys2Proof.Machine

variable {s : State}

/-- A byte read after a byte write, at any two addresses (20_memory.md R31, R32). -/
theorem State.memRead_memWrite (h : s.mem.wf) (addr a : Nat) (b : Byte) :
    (s.memWrite addr b).memRead a = if a % 4096 = addr % 4096 then b else s.memRead a :=
  Memory.read_write _ _ _ _ h

theorem State.memRead_memWrite_of_ne {addr a : Nat} (b : Byte) (h : a % 4096 ≠ addr % 4096) :
    (s.memWrite addr b).memRead a = s.memRead a :=
  Memory.read_write_ne _ _ _ _ h

/-- Settles O22: the two laws of a byte write, whose frame holds by definition. -/
theorem memWriteSetsOneByte : Obligations.MemWriteSetsOneByte := by
  intro s addr b
  refine ⟨fun hwf => ?_, fun a hne => State.memRead_memWrite_of_ne b hne, rfl⟩
  rw [State.memRead_memWrite hwf, if_pos rfl]

/-- A fetch is two byte reads, the first the high half (20_memory.md R30). -/
theorem State.fetchWord_eq_append (s : State) :
    s.fetchWord = s.memRead s.pc.toNat ++ s.memRead (s.pc.toNat + 1) := rfl

/-- Settles O24: each of the fetch's two byte reads sees the byte write. -/
theorem fetchSeesStore : Obligations.FetchSeesStore := by
  intro s addr b hwf
  rw [State.fetchWord_eq_append, State.memWrite_pc, State.memRead_memWrite hwf, State.memRead_memWrite hwf]

/-- Settles O57: each instruction's next state is the old one under setters of fields, of which at most one is an element
named here. -/
theorem eachStateElementHasItsWriters : Obligations.EachStateElementHasItsWriters := by
  intro i s t he
  cases i
  -- The stack is written by a call or a return that does not halt.
  case ret => obtain ⟨-, rfl⟩ | ⟨a, -, rfl⟩ := exec_ret_next_cases he <;> simp [Instr.mnemonic]
  case call => obtain ⟨-, rfl⟩ | ⟨-, rfl⟩ := exec_call_next_cases he <;> simp [Instr.mnemonic]
  all_goals obtain rfl := Host.Outcome.next.inj he
  case bcd | stm => -- memory
    rw [s.storeBytes_eq]; simp [Instr.mnemonic]
  case cls => simp [Instr.mnemonic] -- the display
  case drw => -- the display and VF
    rw [s.setDrawn_eq]; simp [Instr.mnemonic]
  case ldix | addix | font => simp [Instr.mnemonic] -- `I`
  case setdt | setst => simp [Instr.mnemonic] -- a timer
  case sei | snei | se | sne | skp | sknp => -- `PC`
    rw [State.skipIf_eq]; simp
  case jp | jpv0 => simp -- `PC`
  case waitk => simp -- `MODE`
  case ldm => -- registers
    rw [s.loadRegs_eq]; simp
  case rnd => -- a register
    rw [rndWith]; simp
  case ldi | addi | mov | or | and | xor | add | sub | shr | subn | shl | getdt => simp -- registers

end Sys2Proof.Machine
end

section
/-! PROOFS. O1, O2, O3: the two round trips between an instruction and its word. -/

namespace Sys2Proof

variable {w : Word} {i : Instr}

/-- Settles O1: each word is evaluated. -/
theorem sampleWordsDecode : Obligations.SampleWordsDecode :=
  ⟨rfl, rfl, rfl, rfl, rfl, rfl, rfl, rfl, rfl, rfl, rfl, rfl, rfl, rfl, rfl, rfl, rfl⟩

/-! A word is its digits, cut as each form cuts it (30_encoding.md R47, R48). -/

theorem fieldOp_append_fieldNNN (w : Word) : fieldOp w ++ fieldNNN w = w :=
  (BitVec.extractLsb'_append_extractLsb'_eq_extractLsb' rfl).trans BitVec.extractLsb'_eq_self

theorem fieldOp_append_fieldX (w : Word) : fieldOp w ++ fieldX w = w.extractLsb' 8 8 :=
  BitVec.extractLsb'_append_extractLsb'_eq_extractLsb' rfl

theorem fields_append_fieldNN (w : Word) : fieldOp w ++ fieldX w ++ fieldNN w = w := by
  rw [fieldOp_append_fieldX]
  exact (BitVec.extractLsb'_append_extractLsb'_eq_extractLsb' rfl).trans BitVec.extractLsb'_eq_self

theorem fields_append_fieldY_fieldN (w : Word) : fieldOp w ++ fieldX w ++ fieldY w ++ fieldN w = w := by
  rw [fieldOp_append_fieldX]
  have h : w.extractLsb' 8 8 ++ fieldY w = w.extractLsb' 4 12 :=
    BitVec.extractLsb'_append_extractLsb'_eq_extractLsb' rfl
  rw [h]
  exact (BitVec.extractLsb'_append_extractLsb'_eq_extractLsb' rfl).trans BitVec.extractLsb'_eq_self

/-! A word whose fixed digits are given as numbers, which is how the decoder tests them, is the word its form makes of them
and of its fields. -/

section
variable {p : Nibble} (hop : (fieldOp w).toNat = p.toNat)
include hop

theorem formA_of_op : p ++ fieldNNN w = w := by
  rw [← BitVec.eq_of_toNat_eq hop, fieldOp_append_fieldNNN]

theorem formI_of_op : p ++ fieldX w ++ fieldNN w = w := by
  rw [← BitVec.eq_of_toNat_eq hop, fields_append_fieldNN]

theorem formS_of_op : p ++ fieldX w ++ fieldY w ++ fieldN w = w := by
  rw [← BitVec.eq_of_toNat_eq hop, fields_append_fieldY_fieldN]

theorem formR_of_op {q : Nibble} (hn : (fieldN w).toNat = q.toNat) : p ++ fieldX w ++ fieldY w ++ q = w := by
  rw [← BitVec.eq_of_toNat_eq hn, formS_of_op hop]

theorem formU_of_op {q : Byte} (hnn : fieldNN w = q) : p ++ fieldX w ++ q = w := by
  rw [← hnn, formI_of_op hop]

end

/-! The decoder group by group: what a group accepts is encoded by the word it came from. -/

theorem encode_of_decodeGroup0 (h : decodeGroup0 w = .ok i) : encode i = w := by
  unfold decodeGroup0 at h
  split_ifs at h with hw hw
  all_goals cases h
  all_goals exact hw.symm

theorem encode_of_decodeGroup5 (hop : (fieldOp w).toNat = 0x5) (h : decodeGroup5 w = .ok i) : encode i = w := by
  unfold decodeGroup5 at h
  split_ifs at h with hn
  cases h
  exact formR_of_op hop (congrArg _ hn)

theorem encode_of_decodeGroup8 (hop : (fieldOp w).toNat = 0x8) (h : decodeGroup8 w = .ok i) : encode i = w := by
  unfold decodeGroup8 at h
  split at h
  all_goals cases h
  all_goals exact formR_of_op hop ‹_›

theorem encode_of_decodeGroup9 (hop : (fieldOp w).toNat = 0x9) (h : decodeGroup9 w = .ok i) : encode i = w := by
  unfold decodeGroup9 at h
  split_ifs at h with hn
  cases h
  exact formR_of_op hop (congrArg _ hn)

theorem encode_of_decodeGroupE (hop : (fieldOp w).toNat = 0xE) (h : decodeGroupE w = .ok i) : encode i = w := by
  unfold decodeGroupE at h
  split_ifs at h
  all_goals cases h
  all_goals exact formU_of_op hop ‹_›

theorem encode_of_decodeGroupF (hop : (fieldOp w).toNat = 0xF) (h : decodeGroupF w = .ok i) : encode i = w := by
  unfold decodeGroupF at h
  split_ifs at h
  all_goals cases h
  all_goals exact formU_of_op hop ‹_›

theorem decode_encode (i : Instr) : decode (encode i) = .ok i := by
  cases i
  case cls | ret => rfl
  case jp | call | ldix | jpv0 => simp [encode, decode, fieldOp_formA, fieldNNN_formA]
  case sei | snei | ldi | addi | rnd => simp [encode, decode, fieldOp_formI, fieldX_formI, fieldNN_formI]
  case drw => simp [encode, decode, fieldOp_formR, fieldX_formR, fieldY_formR, fieldN_formR]
  case skp | sknp =>
    simp [encode, decode, decodeGroupE, fieldOp_formI, fieldX_formI, fieldNN_formI]
  case getdt | setdt | setst | addix | waitk | font | bcd | stm | ldm =>
    simp [encode, decode, decodeGroupF, fieldOp_formI, fieldX_formI, fieldNN_formI]
  case se | sne =>
    simp [encode, decode, decodeGroup5, decodeGroup9, fieldOp_formR, fieldX_formR, fieldY_formR, fieldN_formR]
  case mov | or | and | xor | add | sub | shr | subn | shl =>
    simp [encode, decode, decodeGroup8, fieldOp_formR, fieldX_formR, fieldY_formR, fieldN_formR]

/-- The arms of the decoder are numbered from 1, in the order of the leading nibble. -/
theorem encode_of_decode (h : decode w = .ok i) : encode i = w := by
  unfold decode at h
  split at h
  case h_1 => exact encode_of_decodeGroup0 h
  case h_6 hop => exact encode_of_decodeGroup5 hop h
  case h_9 hop => exact encode_of_decodeGroup8 hop h
  case h_10 hop => exact encode_of_decodeGroup9 hop h
  case h_15 hop => exact encode_of_decodeGroupE hop h
  case h_16 =>
    have hop : (fieldOp w).toNat = 0xF := by
      simp only [imp_false] at *
      omega
    exact encode_of_decodeGroupF hop h
  all_goals obtain rfl := Except.ok.inj h
  case h_2 hop | h_3 hop | h_11 hop | h_12 hop => exact formA_of_op hop
  case h_14 hop => exact formS_of_op hop
  all_goals exact formI_of_op ‹_›

/-- Settles O2: instruction by instruction, the fields that the decoder tests and reads are the digits that form the word. -/
theorem decodeOfEncode : Obligations.DecodeOfEncode := decode_encode

/-- Settles O3: arm by arm, the digits that the decoder tests and the fields that it reads make up the whole word. -/
theorem encodeOfDecode : Obligations.EncodeOfDecode := fun _ _ => encode_of_decode

end Sys2Proof
end

section
/-! PROOFS. O4: the rows of the opcode table (30_encoding.md R50). -/

namespace Sys2Proof

variable {w : Word} {m : Mnemonic}

/-- The instruction of row `m` whose operands are the fields of `w` (30_encoding.md R47, R50). -/
def Mnemonic.instr (m : Mnemonic) (w : Word) : Instr :=
  match m with
  | .cls => .cls
  | .ret => .ret
  | .jp => .jp (fieldNNN w)
  | .call => .call (fieldNNN w)
  | .sei => .sei (fieldX w) (fieldNN w)
  | .snei => .snei (fieldX w) (fieldNN w)
  | .se => .se (fieldX w) (fieldY w)
  | .ldi => .ldi (fieldX w) (fieldNN w)
  | .addi => .addi (fieldX w) (fieldNN w)
  | .mov => .mov (fieldX w) (fieldY w)
  | .or => .or (fieldX w) (fieldY w)
  | .and => .and (fieldX w) (fieldY w)
  | .xor => .xor (fieldX w) (fieldY w)
  | .add => .add (fieldX w) (fieldY w)
  | .sub => .sub (fieldX w) (fieldY w)
  | .shr => .shr (fieldX w) (fieldY w)
  | .subn => .subn (fieldX w) (fieldY w)
  | .shl => .shl (fieldX w) (fieldY w)
  | .sne => .sne (fieldX w) (fieldY w)
  | .ldix => .ldix (fieldNNN w)
  | .jpv0 => .jpv0 (fieldNNN w)
  | .rnd => .rnd (fieldX w) (fieldNN w)
  | .drw => .drw (fieldX w) (fieldY w) (fieldN w)
  | .skp => .skp (fieldX w)
  | .sknp => .sknp (fieldX w)
  | .getdt => .getdt (fieldX w)
  | .setdt => .setdt (fieldX w)
  | .setst => .setst (fieldX w)
  | .addix => .addix (fieldX w)
  | .waitk => .waitk (fieldX w)
  | .font => .font (fieldX w)
  | .bcd => .bcd (fieldX w)
  | .stm => .stm (fieldX w)
  | .ldm => .ldm (fieldX w)

@[simp] theorem mnemonic_instr (m : Mnemonic) (w : Word) : (m.instr w).mnemonic = m := by
  cases m <;> rfl

/-! The fixed digits of a word that a row selects are those of the row's match value. -/

/-- Where a mask is all ones, a word whose masked bits are `b` agrees with `b`. -/
theorem extractLsb'_of_and_eq {w mask b : Word} {start len : Nat} (h : w &&& mask = b)
    (hmask : mask.extractLsb' start len = BitVec.allOnes len) : w.extractLsb' start len = b.extractLsb' start len := by
  rw [← h, BitVec.extractLsb'_and, hmask, BitVec.and_allOnes]

theorem fieldOp_of_selected (h : w &&& m.mask = m.matchBits) : fieldOp w = fieldOp m.matchBits :=
  extractLsb'_of_and_eq h (by cases m <;> rfl)

theorem fieldN_of_selected (hf : m.form = .R) (h : w &&& m.mask = m.matchBits) : fieldN w = fieldN m.matchBits :=
  extractLsb'_of_and_eq h (by rw [Mnemonic.mask, hf]; rfl)

theorem fieldNN_of_selected (hf : m.form = .U) (h : w &&& m.mask = m.matchBits) : fieldNN w = fieldNN m.matchBits :=
  extractLsb'_of_and_eq h (by rw [Mnemonic.mask, hf]; rfl)

/-- A word that a row selects is the word of the row's instruction with the word's own fields. -/
theorem encode_instr_of_selected (h : w &&& m.mask = m.matchBits) : encode (m.instr w) = w := by
  have hop := congrArg BitVec.toNat (fieldOp_of_selected h)
  cases m
  case cls | ret => exact (BitVec.and_allOnes.symm.trans h).symm
  case jp | call | ldix | jpv0 => exact formA_of_op hop
  case sei | snei | ldi | addi | rnd => exact formI_of_op hop
  case drw => exact formS_of_op hop
  case skp | sknp | getdt | setdt | setst | addix | waitk | font | bcd | stm | ldm =>
    exact formU_of_op hop (fieldNN_of_selected rfl h)
  all_goals exact formR_of_op hop (congrArg BitVec.toNat (fieldN_of_selected rfl h))

open Laws in
/-- The word of every instruction is selected by its row: the instructions' fixed bits, put together. -/
theorem encode_and_mask (i : Instr) : encode i &&& i.mnemonic.mask = i.mnemonic.matchBits := by
  cases i
  exacts [FixedBits.cls, FixedBits.ret, FixedBits.jp _, FixedBits.call _, FixedBits.sei _ _, FixedBits.snei _ _,
    FixedBits.se _ _, FixedBits.ldi _ _, FixedBits.addi _ _, FixedBits.mov _ _, FixedBits.or _ _, FixedBits.and _ _,
    FixedBits.xor _ _, FixedBits.add _ _, FixedBits.sub _ _, FixedBits.shr _ _, FixedBits.subn _ _, FixedBits.shl _ _,
    FixedBits.sne _ _, FixedBits.ldix _, FixedBits.jpv0 _, FixedBits.rnd _ _, FixedBits.drw _ _ _, FixedBits.skp _,
    FixedBits.sknp _, FixedBits.getdt _, FixedBits.setdt _, FixedBits.setst _, FixedBits.addix _, FixedBits.waitk _,
    FixedBits.font _, FixedBits.bcd _, FixedBits.stm _, FixedBits.ldm _]

/-- Settles O4: a selected word is the word of its row's instruction, and a decoded word that of the instruction decoded. -/
theorem decodeFollowsOpcodeTable : Obligations.DecodeFollowsOpcodeTable := by
  intro w m
  constructor
  · intro h
    have hd := decode_encode (m.instr w)
    rw [encode_instr_of_selected h] at hd
    exact ⟨_, hd, mnemonic_instr m w⟩
  · rintro ⟨i, hd, rfl⟩
    rw [← encode_of_decode hd]
    exact encode_and_mask i

end Sys2Proof
end

section
/-! PROOFS. O5: what the decoder rejects, group by group (30_encoding.md R52). -/

namespace Sys2Proof

theorem toNat_fieldOp (w : Word) : (fieldOp w).toNat = w.toNat / 4096 := by
  rw [fieldOp, BitVec.extractLsb'_toNat, Nat.shiftRight_eq_div_pow]
  omega

theorem toNat_fieldN (w : Word) : (fieldN w).toNat = w.toNat % 16 := BitVec.extractLsb'_toNat 0 4 w

theorem toNat_fieldNN (w : Word) : (fieldNN w).toNat = w.toNat % 256 := BitVec.extractLsb'_toNat 0 8 w

theorem fieldN_eq_iff {w : Word} {q : Nibble} : fieldN w = q ↔ w.toNat % 16 = q.toNat := by
  rw [← toNat_fieldN, BitVec.toNat_inj]

theorem fieldNN_eq_iff {w : Word} {q : Byte} : fieldNN w = q ↔ w.toNat % 256 = q.toNat := by
  rw [← toNat_fieldNN, BitVec.toNat_inj]

theorem decodeGroup0_error_iff (w : Word) : (∃ e, decodeGroup0 w = .error e) ↔ w ≠ 0x00E0 ∧ w ≠ 0x00EE := by
  unfold decodeGroup0
  split_ifs <;> simp [*]

theorem decodeGroup5_error_iff (w : Word) : (∃ e, decodeGroup5 w = .error e) ↔ w.toNat % 16 ≠ 0 := by
  simp only [decodeGroup5, fieldN_eq_iff, BitVec.toNat_ofNat]
  split_ifs <;> simp_all

theorem decodeGroup8_error_iff (w : Word) :
    (∃ e, decodeGroup8 w = .error e) ↔ w.toNat % 16 ∈ [0x8, 0x9, 0xA, 0xB, 0xC, 0xD, 0xF] := by
  have hlt : w.toNat % 16 < 16 := Nat.mod_lt _ (by decide)
  rw [decodeGroup8, toNat_fieldN]
  interval_cases w.toNat % 16 <;> simp

theorem decodeGroup9_error_iff (w : Word) : (∃ e, decodeGroup9 w = .error e) ↔ w.toNat % 16 ≠ 0 := by
  simp only [decodeGroup9, fieldN_eq_iff, BitVec.toNat_ofNat]
  split_ifs <;> simp_all

theorem decodeGroupE_error_iff (w : Word) :
    (∃ e, decodeGroupE w = .error e) ↔ w.toNat % 256 ≠ 0x9E ∧ w.toNat % 256 ≠ 0xA1 := by
  simp only [decodeGroupE, fieldNN_eq_iff, BitVec.toNat_ofNat]
  split_ifs <;> simp_all

theorem decodeGroupF_error_iff (w : Word) : (∃ e, decodeGroupF w = .error e) ↔
    w.toNat % 256 ∉ [0x07, 0x0A, 0x15, 0x18, 0x1E, 0x29, 0x33, 0x55, 0x65] := by
  simp only [decodeGroupF, fieldNN_eq_iff, BitVec.toNat_ofNat]
  split_ifs <;> simp_all

/-- Settles O5: the leading nibble names the group, and each group rejects its own words. -/
theorem illegalWordsAreTheSixGroups : Obligations.IllegalWordsAreTheSixGroups := by
  intro w
  have hlt : w.toNat / 4096 < 16 := by omega
  rw [decode, toNat_fieldOp]
  interval_cases w.toNat / 4096 <;>
    simp [decodeGroup0_error_iff, decodeGroup5_error_iff, decodeGroup8_error_iff, decodeGroup9_error_iff,
      decodeGroupE_error_iff, decodeGroupF_error_iff]

end Sys2Proof
end

section
/-! PROOFS. O6: the assembler (30_encoding.md R48, R55). -/

namespace Sys2Proof

/-- The operands that form `f` reads from a word (30_encoding.md R47, R48). -/
def Form.operands (f : Form) (w : Word) : List Nat :=
  match f with
  | .Z => []
  | .A => [(fieldNNN w).toNat]
  | .I => [(fieldX w).toNat, (fieldNN w).toNat]
  | .R => [(fieldX w).toNat, (fieldY w).toNat]
  | .S => [(fieldX w).toNat, (fieldY w).toNat, (fieldN w).toNat]
  | .U => [(fieldX w).toNat]

theorem operands_instr (m : Mnemonic) (w : Word) : (m.instr w).operands = m.form.operands w := by
  cases m <;> rfl

/-! The operands that each form reads from a word written digit by digit. -/

theorem operands_formA (p : Nibble) (nnn : Imm12) : Form.A.operands (p ++ nnn) = [nnn.toNat] := by
  rw [Form.operands, fieldNNN_formA]

theorem operands_formI (p x : Nibble) (nn : Byte) : Form.I.operands (p ++ x ++ nn) = [x.toNat, nn.toNat] := by
  rw [Form.operands, fieldX_formI, fieldNN_formI]

theorem operands_formR (p x y q : Nibble) : Form.R.operands (p ++ x ++ y ++ q) = [x.toNat, y.toNat] := by
  rw [Form.operands, fieldX_formR, fieldY_formR]

theorem operands_formS (p x y n : Nibble) : Form.S.operands (p ++ x ++ y ++ n) = [x.toNat, y.toNat, n.toNat] := by
  rw [Form.operands, fieldX_formR, fieldY_formR, fieldN_formR]

theorem operands_formU (p x : Nibble) (q : Byte) : Form.U.operands (p ++ x ++ q) = [x.toNat] := by
  rw [Form.operands, fieldX_formI]

/-- Operands that fit their fields are the operands of a word, here of one with fixed digits 0. -/
theorem exists_operands_of_wellFormed {l : SourceLine} (h : l.wellFormed = true) :
    ∃ w, l.mnemonic.form.operands w = l.operands := by
  unfold SourceLine.wellFormed at h
  split at h
  case h_7 => contradiction
  all_goals rename_i hf ho; rw [hf, ho]
  case h_1 => exact ⟨0, rfl⟩
  case h_2 nnn => exact ⟨_, operands_formA 0 (.ofNatLT nnn (of_decide_eq_true h))⟩
  case h_3 x nn =>
    obtain ⟨hx, hnn⟩ : x < 16 ∧ nn < 256 := by simpa using h
    exact ⟨_, operands_formI 0 (.ofNatLT x hx) (.ofNatLT nn hnn)⟩
  case h_4 x y =>
    obtain ⟨hx, hy⟩ : x < 16 ∧ y < 16 := by simpa using h
    exact ⟨_, operands_formR 0 (.ofNatLT x hx) (.ofNatLT y hy) 0⟩
  case h_5 x y n =>
    obtain ⟨⟨hx, hy⟩, hn⟩ : (x < 16 ∧ y < 16) ∧ n < 16 := by simpa using h
    exact ⟨_, operands_formS 0 (.ofNatLT x hx) (.ofNatLT y hy) (.ofNatLT n hn)⟩
  case h_6 x => exact ⟨_, operands_formU 0 (.ofNatLT x (of_decide_eq_true h)) 0⟩

/-- The line of an instruction. -/
def Instr.line (i : Instr) : SourceLine := ⟨i.mnemonic, i.operands⟩

theorem wellFormed_line (i : Instr) : i.line.wellFormed = true := by
  cases i
  case cls | ret => rfl
  case jp nnn | call nnn | ldix nnn | jpv0 nnn => exact decide_eq_true nnn.isLt
  case skp x | sknp x | getdt x | setdt x | setst x | addix x | waitk x | font x | bcd x | stm x | ldm x =>
    exact decide_eq_true x.isLt
  case drw x y n =>
    exact Bool.and_eq_true_iff.mpr
      ⟨Bool.and_eq_true_iff.mpr ⟨decide_eq_true x.isLt, decide_eq_true y.isLt⟩, decide_eq_true n.isLt⟩
  case sei x b | snei x b | ldi x b | addi x b | rnd x b | se x b | mov x b | or x b | and x b | xor x b | add x b |
      sub x b | shr x b | subn x b | shl x b | sne x b =>
    exact Bool.and_eq_true_iff.mpr ⟨decide_eq_true x.isLt, decide_eq_true b.isLt⟩

theorem toNat_append_eq_add {a b : Nat} (x : BitVec a) (y : BitVec b) :
    (x ++ y).toNat = x.toNat * 2 ^ b + y.toNat := by
  rw [BitVec.toNat_append, ← Nat.shiftLeft_add_eq_or_of_lt y.isLt, Nat.shiftLeft_eq]

theorem formA_eq_add (p : Nibble) (nnn : Imm12) : (p ++ nnn : Word) = (p ++ 0#12) + BitVec.ofNat 16 nnn.toNat := by
  apply BitVec.eq_of_toNat_eq
  simp only [toNat_append_eq_add, BitVec.toNat_add, BitVec.toNat_ofNat]
  omega

theorem formI_eq_add (p x : Nibble) (nn : Byte) :
    (p ++ x ++ nn : Word) = (p ++ 0#4 ++ 0#8) + BitVec.ofNat 16 (256 * x.toNat + nn.toNat) := by
  apply BitVec.eq_of_toNat_eq
  simp only [toNat_append_eq_add, BitVec.toNat_add, BitVec.toNat_ofNat]
  omega

theorem formS_eq_add (p x y n : Nibble) : (p ++ x ++ y ++ n : Word) =
    (p ++ 0#4 ++ 0#4 ++ 0#4) + BitVec.ofNat 16 (256 * x.toNat + 16 * y.toNat + n.toNat) := by
  apply BitVec.eq_of_toNat_eq
  simp only [toNat_append_eq_add, BitVec.toNat_add, BitVec.toNat_ofNat]
  omega

theorem formR_eq_add (p x y q : Nibble) : (p ++ x ++ y ++ q : Word) =
    (p ++ 0#4 ++ 0#4 ++ q) + BitVec.ofNat 16 (256 * x.toNat + 16 * y.toNat) := by
  apply BitVec.eq_of_toNat_eq
  simp only [toNat_append_eq_add, BitVec.toNat_add, BitVec.toNat_ofNat]
  omega

theorem formU_eq_add (p x : Nibble) (q : Byte) :
    (p ++ x ++ q : Word) = (p ++ 0#4 ++ q) + BitVec.ofNat 16 (256 * x.toNat) := by
  apply BitVec.eq_of_toNat_eq
  simp only [toNat_append_eq_add, BitVec.toNat_add, BitVec.toNat_ofNat]
  omega

/-- Form by form, the row's match value plus the operands at their places is the word written digit by digit. -/
theorem encode_eq_assembleWord (i : Instr) :
    encode i = assembleWord i.mnemonic.form i.mnemonic.matchBits i.operands := by
  cases i
  case cls | ret => rfl
  case jp | call | ldix | jpv0 => exact (formA_eq_add _ _).trans rfl
  case sei | snei | ldi | addi | rnd => exact (formI_eq_add _ _ _).trans rfl
  case drw => exact (formS_eq_add _ _ _ _).trans rfl
  case skp | sknp | getdt | setdt | setst | addix | waitk | font | bcd | stm | ldm => exact (formU_eq_add _ _ _).trans rfl
  all_goals exact (formR_eq_add _ _ _ _).trans rfl

theorem assemble_line (i : Instr) : i.line.assemble = some (encode i) := by
  rw [SourceLine.assemble, if_pos (wellFormed_line i)]
  exact congrArg some (encode_eq_assembleWord i).symm

theorem exists_eq_line_of_wellFormed {l : SourceLine} (h : l.wellFormed = true) : ∃ i : Instr, l = i.line := by
  obtain ⟨w, hw⟩ := exists_operands_of_wellFormed h
  exact ⟨l.mnemonic.instr w, by rw [Instr.line, mnemonic_instr, operands_instr, hw]⟩

/-- Settles O6: the well-formed lines are the lines of the instructions, and such a line is assembled to its instruction's
word. -/
theorem assembledLineDecodes : Obligations.AssembledLineDecodes := by
  refine ⟨fun l h => ?_, fun l h => ?_, fun i => ⟨wellFormed_line i, assemble_line i⟩⟩
  · obtain ⟨i, rfl⟩ := exists_eq_line_of_wellFormed h
    exact ⟨encode i, i, assemble_line i, decode_encode i, rfl, rfl⟩
  · rw [SourceLine.assemble, h]
    rfl

end Sys2Proof
end

section
/-! PROOFS. O25, O26, O27, O28, O29, O31, O32: arithmetic, logic and shifts (40_arithmetic.md). Each instruction is one
register update of `exec`; what is left is the byte it writes, as a number. -/

namespace Sys2Proof.Machine

/-- The word of an instruction reads back as that instruction. -/
theorem encodes_encode (i : Instr) : Encodes (encode i) i := ⟨decode_encode i, rfl⟩

section
variable {i : Instr} {s : State} {x : Nibble} {b f : Byte}

theorem writesReg_of_exec (he : exec i s = .next (s.setV x b)) : WritesReg i s x b :=
  ⟨_, he, s.V_setV_same x b, fun z hz => s.V_setV_ne x z b hz, rfl⟩

theorem writesRegThenFlag_of_exec (he : exec i s = .next (s.setVThenFlag x b f)) : WritesRegThenFlag i s x b f := by
  refine ⟨_, he, ?_, fun hx => ?_, fun z hz hf => ?_, rfl⟩
  · rw [s.V_setVThenFlag, if_pos rfl]
  · rw [s.V_setVThenFlag, if_neg hx, if_pos rfl]
  · rw [s.V_setVThenFlag, if_neg hf, if_neg hz]

end

/-! The results as numbers. -/

theorem byte_add_eq_ofNat (a b : Byte) : a + b = BitVec.ofNat 8 ((a.toNat + b.toNat) % 256) := by
  apply BitVec.eq_of_toNat_eq
  rw [BitVec.toNat_add, BitVec.toNat_ofNat, Nat.mod_mod]

theorem byte_sub_eq_ofNat (a b : Byte) : a - b = BitVec.ofNat 8 ((a.toNat + 256 - b.toNat) % 256) := by
  apply BitVec.eq_of_toNat_eq
  rw [BitVec.toNat_sub, BitVec.toNat_ofNat]
  have := b.isLt
  omega

theorem byte_shiftRight_one_eq_ofNat (a : Byte) : a >>> 1 = BitVec.ofNat 8 (a.toNat / 2) := by
  apply BitVec.eq_of_toNat_eq
  rw [BitVec.toNat_ushiftRight, BitVec.toNat_ofNat, Nat.shiftRight_one]
  have := a.isLt
  omega

theorem byte_shiftLeft_one_eq_ofNat (a : Byte) : a <<< 1 = BitVec.ofNat 8 ((2 * a.toNat) % 256) := by
  apply BitVec.eq_of_toNat_eq
  rw [BitVec.toNat_shiftLeft, BitVec.toNat_ofNat, Nat.shiftLeft_eq]
  omega

/-! The flags as numbers. -/

theorem flagByte_decide (p : Prop) [Decidable p] : flagByte (decide p) = if p then 1 else 0 := by
  simp only [flagByte, decide_eq_true_eq]

theorem addFlag_eq_ite (a b : Byte) : addFlag a b = if a.toNat + b.toNat > 255 then 1 else 0 := flagByte_decide _

theorem greaterFlag_eq_ite (a b : Byte) : greaterFlag a b = if a.toNat > b.toNat then 1 else 0 := flagByte_decide _

/-- A bit of a byte, kept in VF, is that binary digit of its number. -/
theorem flagByte_getLsbD (b : Byte) (k : Nat) : flagByte (b.getLsbD k) = BitVec.ofNat 8 (b.toNat / 2 ^ k % 2) := by
  rw [← Nat.toNat_testBit, ← BitVec.getLsbD]
  cases b.getLsbD k <;> rfl

theorem shrFlag_eq_ofNat (b : Byte) : shrFlag b = BitVec.ofNat 8 (b.toNat % 2) := by
  rw [shrFlag, flagByte_getLsbD, Nat.pow_zero, Nat.div_one]

theorem shlFlag_eq_ofNat (b : Byte) : shlFlag b = BitVec.ofNat 8 (b.toNat / 128) := by
  have hb : b.toNat / 2 ^ 7 < 2 := Nat.div_lt_of_lt_mul b.isLt
  rw [shlFlag, flagByte_getLsbD, Nat.mod_eq_of_lt hb]
  rfl

/-! The statements. -/

/-- Settles O25: each is one register write. -/
theorem movesWriteOneRegister : Obligations.MovesWriteOneRegister := fun x y nn _ =>
  ⟨⟨encodes_encode (.ldi x nn), writesReg_of_exec rfl⟩, ⟨encodes_encode (.mov x y), writesReg_of_exec rfl⟩⟩

/-- Settles O26: one register write, of the 8-bit sum. -/
theorem addiWrapsWithoutFlag : Obligations.AddiWrapsWithoutFlag := by
  intro x nn s
  rw [← byte_add_eq_ofNat]
  exact ⟨encodes_encode (.addi x nn), writesReg_of_exec rfl⟩

/-- Settles O27: each is one register write, of the bitwise operation on the two bytes. -/
theorem logicLeavesFlagAlone : Obligations.LogicLeavesFlagAlone := by
  intro x y s
  refine ⟨⟨encodes_encode (.or x y), s.V x ||| s.V y, writesReg_of_exec rfl, fun _ _ => BitVec.getLsbD_or, fun h => ?_⟩,
    ⟨encodes_encode (.and x y), s.V x &&& s.V y, writesReg_of_exec rfl, fun _ _ => BitVec.getLsbD_and, fun h => ?_⟩,
    ⟨encodes_encode (.xor x y), s.V x ^^^ s.V y, writesReg_of_exec rfl, fun _ _ => BitVec.getLsbD_xor, fun h => ?_⟩⟩
  · rw [h, BitVec.or_self]
  · rw [h, BitVec.and_self]
  · rw [h]
    exact BitVec.xor_self

/-- Settles O28: the 8-bit sum, then the carry. -/
theorem addWritesSumThenCarry : Obligations.AddWritesSumThenCarry := by
  intro x y s
  rw [← byte_add_eq_ofNat, ← addFlag_eq_ite]
  exact ⟨encodes_encode (.add x y), writesRegThenFlag_of_exec rfl⟩

/-- Settles O29: the 8-bit difference, then the comparison of the operands as read before the write. -/
theorem subWritesDifferenceThenStrictFlag : Obligations.SubWritesDifferenceThenStrictFlag := by
  intro x y s
  rw [← byte_sub_eq_ofNat, ← greaterFlag_eq_ite]
  exact ⟨encodes_encode (.sub x y), writesRegThenFlag_of_exec rfl⟩

/-- Settles O31: the source shifted right, then its bit 0. -/
theorem shrShiftsSourceRight : Obligations.ShrShiftsSourceRight := by
  intro x y s
  rw [← byte_shiftRight_one_eq_ofNat, ← shrFlag_eq_ofNat]
  exact ⟨encodes_encode (.shr x y), writesRegThenFlag_of_exec rfl⟩

/-- Settles O32: the source shifted left, then its bit 7. -/
theorem shlShiftsSourceLeft : Obligations.ShlShiftsSourceLeft := by
  intro x y s
  rw [← byte_shiftLeft_one_eq_ofNat, ← shlFlag_eq_ofNat]
  exact ⟨encodes_encode (.shl x y), writesRegThenFlag_of_exec rfl⟩

end Sys2Proof.Machine
end

section
/-! PROOFS. O37, O38, O40: control flow (41_control_flow.md). -/

namespace Sys2Proof.Machine

theorem imm16_eq_ofNat (nnn : Imm12) : imm16 nnn = BitVec.ofNat 16 nnn.toNat := (BitVec.ofNat_toNat 16 nnn).symm

theorem word_add_two_eq_ofNat (w : Word) : w + 2 = BitVec.ofNat 16 ((w.toNat + 2) % 65536) := by
  apply BitVec.eq_of_toNat_eq
  rw [BitVec.toNat_add, BitVec.toNat_ofNat, Nat.mod_mod]
  rfl

/-- RET undoes a push: `PC` takes the word pushed and the stack is as before the push (41_control_flow.md R80). -/
theorem exec_ret_of_stack_eq_append {s : State} {older : List Word} {a : Word} (h : s.stack = older ++ [a]) :
    exec .ret s = .next ((s.setStack older).setPc a) := by
  have hlast : s.stack.getLast? = some a := by rw [h, List.getLast?_concat]
  rw [exec_ret_of_getLast? hlast, h, List.dropLast_concat]

section
variable {i : Instr} {s : State} {b : Bool} {taken : Prop}

theorem skips_of_exec (he : exec i s = .next (s.skipIf b)) (hb : b = true ↔ taken) : Skips i s taken := by
  refine ⟨fun ht => ?_, fun ht => ?_⟩
  · rw [he, hb.mpr ht, ← word_add_two_eq_ofNat]
    rfl
  · have hfalse : b = false := Bool.eq_false_iff.mpr (mt hb.mp ht)
    rw [he, hfalse]
    rfl

end

/-- Settles O37: below depth 16 the CALL pushes the advanced `PC`, and the RET pops it from the stack that the CALL left. -/
theorem callThenRetReturns : Obligations.CallThenRetReturns := by
  intro nnn s t u hdepth hcall hstack
  obtain ⟨hfull, -⟩ | ⟨-, rfl⟩ := exec_call_next_cases hcall
  · exact absurd hfull hdepth
  · exact ⟨_, exec_ret_of_stack_eq_append hstack, rfl, rfl⟩

/-- Settles O38: the jump writes `PC` only. -/
theorem jpLoadsTarget : Obligations.JpLoadsTarget := by
  intro nnn s
  rw [← imm16_eq_ofNat]
  exact ⟨encodes_encode (.jp nnn), rfl⟩

/-- Settles O40: each is one skip, on the comparison of `V[X]` with `NN`. -/
theorem immediateSkips : Obligations.ImmediateSkips := fun x nn _ =>
  ⟨⟨encodes_encode (.sei x nn), skips_of_exec rfl beq_iff_eq⟩, ⟨encodes_encode (.snei x nn), skips_of_exec rfl bne_iff_ne⟩⟩

end Sys2Proof.Machine
end

section
/-! PROOFS. O42, O43, O44, O45, O46, O47: the index register and memory transfer (42_memory_transfer.md). The facts about a
block of bytes at `I` come first, in terms of `dataAddr` and `blockRegs`. -/

namespace Sys2Proof.Machine

/-! A block of bytes at `I` (42_memory_transfer.md R99). -/

section
variable {s : State} {bs : List Byte}

/-- A data address is the sum `I + k` reduced, and memory reduces an address itself; `t` is any state. -/
theorem State.memRead_dataAddr (s t : State) (k : Nat) : t.memRead (s.dataAddr k) = t.memRead (s.idx.toNat + k) :=
  t.mem.read_mod _

theorem State.memRead_storeBytes_dataAddr (hw : s.mem.wf) (hl : bs.length ≤ Config.memSize) {k : Nat} (hk : k < bs.length) :
    (s.storeBytes s.idx.toNat bs).memRead (s.dataAddr k) = bs[k] := by
  rw [State.memRead_dataAddr]
  exact s.memRead_storeBytes_inside _ bs hw hl k hk

theorem State.memRead_storeBytes_of_ne_dataAddr {a : Nat} (h : ∀ k < bs.length, a % 4096 ≠ s.dataAddr k) :
    (s.storeBytes s.idx.toNat bs).memRead a = s.memRead a := s.memRead_storeBytes_outside _ bs a h

end

/-! The block `V[0]` to `V[X]` (30_encoding.md R49): `V[k]` stands at place `k`. -/

section
variable {x k : Nibble}

theorem toNat_lt_length_blockRegs (h : k.toNat ≤ x.toNat) : k.toNat < (blockRegs x).length := by
  rw [length_blockRegs]
  omega

theorem getElem_blockRegs_toNat (h : k.toNat < (blockRegs x).length) : (blockRegs x)[k.toNat] = k := by
  rw [getElem_blockRegs, BitVec.ofNat_toNat, BitVec.setWidth_eq]

theorem length_blockRegs_le_memSize (x : Nibble) : (blockRegs x).length ≤ Config.memSize := by
  have := x.isLt
  rw [length_blockRegs, Config.memSize]
  omega

theorem State.V_loadRegs_blockRegs (s : State) (a : Nat) (h : k.toNat ≤ x.toNat) :
    (s.loadRegs a (blockRegs x)).V k = s.memRead (a + k.toNat) := by
  have hk := toNat_lt_length_blockRegs h
  have hload := s.V_loadRegs_getElem a (blockRegs x) (nodup_blockRegs x) k.toNat hk
  rwa [getElem_blockRegs_toNat hk] at hload

theorem State.V_loadRegs_blockRegs_of_lt (s : State) (a : Nat) (h : x.toNat < k.toNat) :
    (s.loadRegs a (blockRegs x)).V k = s.V k :=
  s.V_loadRegs_of_notMem a _ k (mt (mem_blockRegs x k).mp (by omega))

end

/-! The values written, as numbers. -/

theorem indexFlag_eq_ite (w : Word) (b : Byte) : indexFlag w b = if w.toNat + b.toNat > 0xFFF then 1 else 0 :=
  flagByte_decide _

theorem glyphAddr_lowNibble (s : State) (x : Nibble) :
    glyphAddr (s.lowNibble x) = BitVec.ofNat 16 (0x050 + 5 * ((s.V x).toNat % 16)) := by
  rw [glyphAddr, State.lowNibble, BitVec.toNat_setWidth]
  rfl

theorem bcdDigits_eq_ofNat (a : Byte) :
    bcdDigits a = [BitVec.ofNat 8 (a.toNat / 100), BitVec.ofNat 8 (a.toNat / 10 % 10), BitVec.ofNat 8 (a.toNat % 10)] := by
  have hundreds : (a / 100).toNat = a.toNat / 100 := BitVec.toNat_udiv
  have tens : (a / 10 % 10).toNat = a.toNat / 10 % 10 := BitVec.toNat_umod
  have units : (a % 10).toNat = a.toNat % 10 := BitVec.toNat_umod
  simp only [bcdDigits, ← hundreds, ← tens, ← units, BitVec.ofNat_toNat, BitVec.setWidth_eq]

/-! The statements. -/

/-- Settles O42: one write of `I`. -/
theorem ldixLoadsIndex : Obligations.LdixLoadsIndex := by
  intro nnn s
  rw [← imm16_eq_ofNat]
  exact ⟨encodes_encode (.ldix nnn), rfl⟩

/-- Settles O43: `I` is written, then VF, with the flag of the operands as read at the start. -/
theorem addixWrapsAndFlags : Obligations.AddixWrapsAndFlags := by
  intro x s
  refine ⟨encodes_encode (.addix x), _, rfl, rfl, ?_, fun z hz => State.V_setV_ne _ 15 z _ hz, rfl⟩
  rw [State.V_setV_same, indexFlag_eq_ite]

/-- Settles O44: one write of `I`. -/
theorem fontPointsAtGlyph : Obligations.FontPointsAtGlyph := by
  intro x s
  rw [← glyphAddr_lowNibble]
  exact ⟨encodes_encode (.font x), rfl⟩

/-- Settles O45: a block store of the three digits. -/
theorem bcdStoresThreeDigits : Obligations.BcdStoresThreeDigits := by
  intro x s
  have he : exec (.bcd x) s = .next (s.storeBytes s.idx.toNat (bcdDigits (s.V x))) := rfl
  rw [bcdDigits_eq_ofNat] at he
  refine ⟨encodes_encode (.bcd x), _, he, fun hw => ?_, fun a ha => State.memRead_storeBytes_of_ne_dataAddr ha,
    s.storeBytes_eq _ _⟩
  have hfits : 3 ≤ Config.memSize := by decide
  have hread {d₀ d₁ d₂ : Byte} {k : Nat} (hk : k < 3) :=
    State.memRead_storeBytes_dataAddr (bs := [d₀, d₁, d₂]) hw hfits hk
  exact ⟨hread (by decide : 0 < 3), hread (by decide : 1 < 3), hread (by decide : 2 < 3)⟩

/-- Settles O46: a block store of the registers `V[0]` to `V[X]`. -/
theorem stmStoresBlock : Obligations.StmStoresBlock := by
  intro x s
  have hlen : ((blockRegs x).map s.V).length = (blockRegs x).length := List.length_map _
  refine ⟨encodes_encode (.stm x), _, rfl, fun hw k hk => ?_, fun a ha => ?_, s.storeBytes_eq _ _⟩
  · have hk' := toNat_lt_length_blockRegs hk
    rw [State.memRead_storeBytes_dataAddr hw (hlen ▸ length_blockRegs_le_memSize x) (hlen ▸ hk'), List.getElem_map,
      getElem_blockRegs_toNat hk']
  · refine State.memRead_storeBytes_of_ne_dataAddr fun k hk => ha k ?_
    rw [hlen, length_blockRegs] at hk
    exact Nat.lt_succ_iff.mp hk

/-- Settles O47: a block load of the registers `V[0]` to `V[X]`. -/
theorem ldmLoadsBlock : Obligations.LdmLoadsBlock := by
  intro x s
  refine ⟨encodes_encode (.ldm x), _, rfl, fun k hk => ?_, fun k hk => s.V_loadRegs_blockRegs_of_lt _ hk,
    s.loadRegs_eq _ _⟩
  rw [s.V_loadRegs_blockRegs _ hk, State.memRead_dataAddr]

end Sys2Proof.Machine
end

section
/-! PROOFS. O48, O49, O50: the display instructions (43_sprite_drawing.md). `drawSprite_spec` says what the draw loop does; here
it is read off the state that DXYN leaves, and drawing twice follows from it alone. -/

namespace Sys2Proof.Machine

/-- The state that DXYN leaves (43_sprite_drawing.md R111). -/
def State.drawn (s : State) (x y n : Nibble) : State :=
  s.setDrawn (drawSprite s.mem s.idx.toNat (s.originCol x) (s.originRow y) n.toNat s.fb)

/-- The bit of the sprite DXYN draws that falls on the pixel `(c, r)`. -/
def State.drawnBit (s : State) (x y n : Nibble) (c r : Nat) : Bool :=
  spriteBit s.mem s.idx.toNat (s.originCol x) (s.originRow y) n.toNat c r

/-- DXYN meets a set pixel of the grid with a set bit of its sprite. -/
def State.Collides (s : State) (x y n : Nibble) : Prop :=
  ∃ c r, c < 64 ∧ r < 32 ∧ s.fb.isPixelSet c r = true ∧ s.drawnBit x y n c r = true

section
variable {x y n : Nibble} {s s' : State} {c r : Nat}

theorem exec_drw : exec (.drw x y n) s = .next (s.drawn x y n) := rfl

theorem isPixelSet_drawn (hc : c < 64) (hr : r < 32) :
    (s.drawn x y n).fb.isPixelSet c r = (s.fb.isPixelSet c r ^^ s.drawnBit x y n c r) :=
  (drawSprite_spec _ _ _ _ _ _).1 c hc r hr

theorem V_drawn_of_ne {z : Nibble} (hz : z ≠ 15) : (s.drawn x y n).V z = s.V z :=
  (s.V_setDrawn _ z).trans (if_neg hz)

/-- The draw loop's flag is the collision. -/
theorem drawSprite_flag_iff_collides :
    (drawSprite s.mem s.idx.toNat (s.originCol x) (s.originRow y) n.toNat s.fb).2 = true ↔ s.Collides x y n := by
  rw [(drawSprite_spec _ _ _ _ _ _).2]
  constructor
  · rintro ⟨c, hc, r, hr, hbit, hset⟩
    exact ⟨c, r, hc, hr, hset, hbit⟩
  · rintro ⟨c, r, hc, hr, hset, hbit⟩
    exact ⟨c, hc, r, hr, hbit, hset⟩

theorem flag_drawn_of_collides (h : s.Collides x y n) : (s.drawn x y n).V 15 = 1 := by
  rw [State.drawn, State.V_setDrawn, if_pos rfl, drawSprite_flag_iff_collides.mpr h]
  rfl

theorem flag_drawn_of_not_collides (h : ¬ s.Collides x y n) : (s.drawn x y n).V 15 = 0 := by
  rw [State.drawn, State.V_setDrawn, if_pos rfl, Bool.eq_false_iff.mpr (mt drawSprite_flag_iff_collides.mp h)]
  rfl

/-- A sprite without a set bit in the grid collides with nothing. -/
theorem not_collides_of_blank (h : ∀ c r, c < 64 → r < 32 → s.drawnBit x y n c r = false) : ¬ s.Collides x y n := by
  rintro ⟨c, r, hc, hr, -, hbit⟩
  exact Bool.false_ne_true ((h c r hc hr).symm.trans hbit)

/-- A sprite bit depends on the bytes of the sprite's rows only. -/
theorem spriteBit_congr {m m' : Memory} {base rows : Nat} (h : ∀ k < rows, m'.read (base + k) = m.read (base + k))
    (ox oy : Nat) : spriteBit m' base ox oy rows c r = spriteBit m base ox oy rows c r := by
  unfold spriteBit
  by_cases hin : ox ≤ c ∧ c < ox + 8 ∧ oy ≤ r ∧ r < oy + rows
  · rw [h (r - oy) (by omega)]
  · rw [decide_eq_false hin, Bool.false_and, Bool.false_and]

/-- Two draws with the same `I`, `V[X]`, `V[Y]` and sprite bytes draw the same bits. -/
theorem drawnBit_congr (hidx : s'.idx = s.idx) (hx : s'.V x = s.V x) (hy : s'.V y = s.V y)
    (hmem : ∀ k, k < n.toNat → s'.memRead (s.idx.toNat + k) = s.memRead (s.idx.toNat + k)) :
    s'.drawnBit x y n c r = s.drawnBit x y n c r := by
  rw [State.drawnBit, hidx, State.originCol, hx, State.originRow, hy]
  exact spriteBit_congr hmem _ _

/-! A second draw of the same bits, on the display that the first left. -/

section
variable (hfb : s'.fb = (s.drawn x y n).fb) (hbits : ∀ c r, s'.drawnBit x y n c r = s.drawnBit x y n c r)
include hfb hbits

/-- Exclusive-or with the same bits twice is the identity. -/
theorem fb_drawn_again : (s'.drawn x y n).fb = s.fb := by
  apply Display.ext_pixels
  intro c hc r hr
  rw [isPixelSet_drawn hc hr, hfb, isPixelSet_drawn hc hr, hbits, Bool.xor_assoc, Bool.xor_self, Bool.xor_false]

/-- Where the first draw met only clear pixels, the second meets those it set. -/
theorem collides_again (hclear : ¬ s.Collides x y n)
    (hbit : ∃ c r, c < 64 ∧ r < 32 ∧ s.drawnBit x y n c r = true) : s'.Collides x y n := by
  obtain ⟨c, r, hc, hr, hbit⟩ := hbit
  have hwas : s.fb.isPixelSet c r = false := Bool.eq_false_iff.mpr fun hset => hclear ⟨c, r, hc, hr, hset, hbit⟩
  refine ⟨c, r, hc, hr, ?_, (hbits c r).trans hbit⟩
  rw [hfb, isPixelSet_drawn hc hr, hwas, hbit, Bool.false_xor]

end

end

/-- Settles O49: the pixels and the flag are those of the draw loop. -/
theorem drwTurnsOverSpritePixels : Obligations.DrwTurnsOverSpritePixels := fun x y n _ =>
  ⟨encodes_encode (.drw x y n), _, exec_drw, fun _ _ hc hr => isPixelSet_drawn hc hr, flag_drawn_of_collides,
    flag_drawn_of_not_collides, fun _ hz => V_drawn_of_ne hz, rfl⟩

/-- Settles O50: both draws turn over the same pixels, so the second undoes the first. -/
theorem drawingTwiceRestoresDisplay : Obligations.DrawingTwiceRestoresDisplay := by
  intro x y n s t s' hfirst hfb hidx hx hy hmem
  obtain rfl : s.drawn x y n = t := Host.Outcome.next.inj hfirst
  have hbits c r : s'.drawnBit x y n c r = s.drawnBit x y n c r := drawnBit_congr hidx hx hy hmem
  refine ⟨_, exec_drw, fb_drawn_again hfb hbits, fun hflag hbit => ?_, fun hblank => ⟨?_, ?_⟩⟩
  · have hclear : ¬ s.Collides x y n := fun h => absurd ((flag_drawn_of_collides h).symm.trans hflag) (by decide)
    exact flag_drawn_of_collides (collides_again hfb hbits hclear hbit)
  · exact flag_drawn_of_not_collides (not_collides_of_blank hblank)
  · exact flag_drawn_of_not_collides (not_collides_of_blank fun c r hc hr => (hbits c r).trans (hblank c r hc hr))

/-- Settles O48: the display becomes the clear one. -/
theorem clsClearsEveryPixel : Obligations.ClsClearsEveryPixel :=
  ⟨encodes_encode .cls, fun _ => ⟨_, rfl, fun c r _ _ => Display.isPixelSet_clear c r, rfl⟩⟩

end Sys2Proof.Machine
end

section
/-! PROOFS. O53: the timer-access instructions (45_timer_access.md). -/

namespace Sys2Proof.Machine

/-- FX15 changes `DT` only (45_timer_access.md R131). -/
theorem exec_setdt (x : Nibble) (s : State) : exec (.setdt x) s = .next { s with dt := s.V x } := rfl

/-- FX18 changes `ST` only; `TONE` stays (45_timer_access.md R132). -/
theorem exec_setst (x : Nibble) (s : State) : exec (.setst x) s = .next { s with st := s.V x } := rfl

/-- Settles O53: FX07 is one register write, of `DT`; FX15 and FX18 are each one write of a timer. -/
theorem timerInstructionsAccessOneTimer : Obligations.TimerInstructionsAccessOneTimer := fun x s =>
  ⟨⟨encodes_encode (.getdt x), writesReg_of_exec rfl⟩, ⟨encodes_encode (.setdt x), exec_setdt x s⟩,
    ⟨encodes_encode (.setst x), exec_setst x s⟩⟩

end Sys2Proof.Machine
end

section
/-! PROOFS. O13, O14, O15, O16: the tick steps iterated (60_exceptions.md R153 to R157). Both timers are one counter, which
`toNat_countDownBy` reads as a number; the gap and its bounds follow from it. -/

namespace Sys2Proof.Machine

variable {s : State}

/-! The counter and the tone after `k` ticks. -/

theorem toNat_countDownBy (b : Byte) (k : Nat) : (countDownBy b k).toNat = b.toNat - k := by
  induction k generalizing b with
  | zero => rfl
  | succ k ih => rw [countDownBy, ih, countDown_toNat, Nat.sub_sub, Nat.add_comm]

theorem countDownBy_eq_ofNat (b : Byte) (k : Nat) : countDownBy b k = BitVec.ofNat 8 (b.toNat - k) := by
  rw [← toNat_countDownBy, BitVec.ofNat_toNat, BitVec.setWidth_eq]

theorem toneFor_eq_ite (b : Byte) : toneFor b = if 0 < b.toNat then .on else .off := by
  by_cases h : b = 0
  · subst h; rfl
  · have hpos : 0 < b.toNat := Nat.pos_of_ne_zero fun h0 => h (BitVec.eq_of_toNat_eq h0)
    rw [toneFor, if_neg h, if_pos hpos]

theorem soundBy_fst (b : Byte) (tone : Tone) (k : Nat) : (soundBy b tone k).1 = countDownBy b k := by
  induction k generalizing b tone with
  | zero => rfl
  | succ k ih => exact ih (countDown b) (toneFor b)

/-- The tone is the one that the last tick asserted: it looked at the counter before its own decrement (R154). -/
theorem soundBy_succ_snd (b : Byte) (tone : Tone) (k : Nat) : (soundBy b tone (k + 1)).2 = toneFor (countDownBy b k) := by
  induction k generalizing b tone with
  | zero => rfl
  | succ k ih => exact ih (countDown b) (toneFor b)

/-! The tick steps iterated, running and halted. -/

theorem State.delayTick_of_halted (h : s.mode = .halted) : s.delayTick = s := if_pos h

theorem State.delayTick_of_not_halted (h : s.mode ≠ .halted) : s.delayTick = s.setDt (countDown s.dt) := if_neg h

theorem State.soundTick_of_halted (h : s.mode = .halted) : s.soundTick = s := if_pos h

theorem State.soundTick_of_not_halted (h : s.mode ≠ .halted) :
    s.soundTick = (s.setSt (countDown s.st)).setTone (toneFor s.st) := if_neg h

theorem State.iterate_delayTick (h : s.mode ≠ .halted) (k : Nat) :
    State.delayTick^[k] s = s.setDt (countDownBy s.dt k) := by
  induction k generalizing s with
  | zero => rfl
  | succ k ih =>
    rw [Function.iterate_succ_apply, State.delayTick_of_not_halted h]
    exact ih h

theorem State.iterate_soundTick (h : s.mode ≠ .halted) (k : Nat) :
    State.soundTick^[k] s = (s.setSt (soundBy s.st s.tone k).1).setTone (soundBy s.st s.tone k).2 := by
  induction k generalizing s with
  | zero => rfl
  | succ k ih =>
    rw [Function.iterate_succ_apply, State.soundTick_of_not_halted h]
    exact ih h

/-- The gap, with the idle shortcuts taken out, is tick steps: first the delay timer's, then the sound timer's. -/
theorem State.ticks_eq_iterate (s : State) (d n : Nat) : s.ticks d n = State.soundTick^[n] (State.delayTick^[d] s) := by
  by_cases h : s.mode = .halted
  · have hdelay : State.delayTick^[d] s = s := Function.iterate_fixed (State.delayTick_of_halted h) d
    have hsound : State.soundTick^[n] s = s := Function.iterate_fixed (State.soundTick_of_halted h) n
    rw [hdelay, hsound]
    exact if_pos h
  · have hdelayed : (s.setDt (delayAfter s.dt d)).mode ≠ .halted := h
    rw [State.iterate_delayTick h, ← delayAfter_eq, State.iterate_soundTick hdelayed, ← soundAfter_eq]
    exact if_neg h

theorem State.commute_iterate_ticks (s : State) (d n : Nat) :
    State.soundTick^[n] (State.delayTick^[d] s) = State.delayTick^[d] (State.soundTick^[n] s) :=
  have hcomm : Function.Commute State.soundTick State.delayTick := State.delayTick_soundTick
  hcomm.iterate_iterate n d s

/-! The gap raises no timer. -/

theorem State.toNat_dt_tickGap_le (s : State) : s.tickGap.dt.toNat ≤ s.dt.toNat := by
  by_cases h : s.mode = .halted
  · rw [State.tickGap_of_halted h]
  · rw [State.tickGap_of_not_halted h, delayAfter_eq, toNat_countDownBy]
    exact Nat.sub_le _ _

theorem State.toNat_st_tickGap_le (s : State) : s.tickGap.st.toNat ≤ s.st.toNat := by
  by_cases h : s.mode = .halted
  · rw [State.tickGap_of_halted h]
  · rw [State.tickGap_of_not_halted h, soundAfter_eq, soundBy_fst, toNat_countDownBy]
    exact Nat.sub_le _ _

/-! An action of the execute loop writes a timer only by the timer's own instruction. -/

section
variable {t : State} {i : Instr}

theorem exec_dt_of_ne_setdt (he : exec i s = .next t) (hi : ∀ x, i ≠ .setdt x) : t.dt = s.dt := by
  obtain ⟨-, -, -, -, hdt, -, -⟩ := eachStateElementHasItsWriters i s t he
  by_contra hne
  have hm := hdt hne
  cases i
  case setdt x => exact hi x rfl
  all_goals cases hm

theorem exec_st_of_ne_setst (he : exec i s = .next t) (hi : ∀ x, i ≠ .setst x) : t.st = s.st := by
  obtain ⟨-, -, -, -, -, hst, -⟩ := eachStateElementHasItsWriters i s t he
  by_contra hne
  have hm := hst hne
  cases i
  case setst x => exact hi x rfl
  all_goals cases hm

end

theorem State.deliverKey_timers (s : State) (x : Nibble) (e : Option Nibble) :
    (s.deliverKey x e).dt = s.dt ∧ (s.deliverKey x e).st = s.st := by
  obtain ⟨-, he⟩ | ⟨k, -, he⟩ := s.deliverKey_cases x e <;> rw [he] <;> exact ⟨rfl, rfl⟩

/-- Settles O13: `DT` is the counter after `j` ticks. -/
theorem delayTimerReachesZeroAndStays : Obligations.DelayTimerReachesZeroAndStays := by
  intro s j h
  rw [State.iterate_delayTick h, countDownBy_eq_ofNat]
  rfl

/-- Settles O14: the `j`-th tick finds `ST` at `n - (j - 1)`, which is greater than 0 exactly when `j ≤ n`. -/
theorem toneLastsSoundTimerTicks : Obligations.ToneLastsSoundTimerTicks := by
  intro s j h hj
  obtain ⟨k, rfl⟩ := Nat.exists_eq_add_of_le' hj
  have hon : 0 < s.st.toNat - k ↔ k + 1 ≤ s.st.toNat := by omega
  rw [State.iterate_soundTick h, soundBy_fst, soundBy_succ_snd, toneFor_eq_ite, toNat_countDownBy, countDownBy_eq_ofNat]
  simp only [hon]
  rfl

/-- Settles O15: the gap is iterated tick steps, and the two kinds of tick commute. -/
theorem gapIsWholeTickSteps : Obligations.GapIsWholeTickSteps :=
  ⟨State.ticks_eq_iterate, fun s d n => (s.ticks_eq_iterate d n).trans (s.commute_iterate_ticks d n),
    fun _ h => if_neg h, fun _ h => State.tickGap_of_halted h⟩

/-- Settles O16: the action leaves the timer as it was, unless it is the timer's own instruction, and the gap does not raise
it. -/
theorem timersRiseOnlyByTheirInstruction : Obligations.TimersRiseOnlyByTheirInstruction := by
  intro s t hstep
  obtain ⟨hm, i, u, hd, he, rfl⟩ | ⟨-, -, rfl⟩ | ⟨x, -, rfl⟩ := step_next_cases hstep
  · constructor <;> intro hother
    · have hdt : u.dt = s.advancePc.dt := exec_dt_of_ne_setdt he fun x hi => hother hm x (hi ▸ hd)
      exact u.toNat_dt_tickGap_le.trans_eq (congrArg _ hdt)
    · have hst : u.st = s.advancePc.st := exec_st_of_ne_setst he fun x hi => hother hm x (hi ▸ hd)
      exact u.toNat_st_tickGap_le.trans_eq (congrArg _ hst)
  · exact ⟨fun _ => State.toNat_dt_tickGap_le _, fun _ => State.toNat_st_tickGap_le _⟩
  · obtain ⟨hdt, hst⟩ := s.nextDraw.deliverKey_timers x s.keyEvent
    exact ⟨fun _ => (State.toNat_dt_tickGap_le _).trans_eq (congrArg _ hdt),
      fun _ => (State.toNat_st_tickGap_le _).trans_eq (congrArg _ hst)⟩

end Sys2Proof.Machine
end

section
/-! PROOFS. O54: which instructions halt the engine (60_exceptions.md R140, R144). -/

namespace Sys2Proof.Machine

/-- Settles O54: `MODE` is written by the faults of RET and CALL and by FX0A, which leaves WAIT_KEY there. -/
theorem onlyStackFaultsHalt : Obligations.OnlyStackFaultsHalt := by
  intro i s t hs he ht
  cases i
  case ret =>
    obtain ⟨hnil, -⟩ | ⟨a, -, rfl⟩ := exec_ret_next_cases he
    · exact .inl ⟨rfl, hnil⟩
    · exact absurd ht hs
  case call nnn =>
    obtain ⟨hfull, -⟩ | ⟨-, rfl⟩ := exec_call_next_cases he
    · exact .inr ⟨nnn, rfl, hfull⟩
    · exact absurd ht hs
  all_goals obtain rfl := Host.Outcome.next.inj he
  case waitk x => exact absurd ht nofun
  case sei | snei | se | sne | skp | sknp => rw [State.skipIf_eq] at ht; exact absurd ht hs
  case bcd | stm => rw [s.storeBytes_eq] at ht; exact absurd ht hs
  case ldm => rw [s.loadRegs_eq] at ht; exact absurd ht hs
  -- The others write registers, `PC`, `I`, a timer or the display.
  all_goals exact absurd ht hs

end Sys2Proof.Machine
end

section
/-! PROOFS. O23: a memory in canonical form lists exactly the addresses below 4096 that do not hold their reset contents, so
what it reads determines its cells. -/

namespace Sys2Proof.Machine

theorem readCells_of_mem {cells : List Host.Cell} {c : Host.Cell} (hs : cells.Pairwise (fun p q => p.1 < q.1))
    (hc : c ∈ cells) : readCells cells c.1 = c.2 := by
  induction cells with
  | nil => cases hc
  | cons d rest ih =>
    obtain ⟨hd, hrest⟩ := List.pairwise_cons.mp hs
    obtain rfl | hc := List.mem_cons.mp hc
    · exact if_pos rfl
    · exact (if_neg (hd c hc).ne).trans (ih hrest hc)

theorem mem_of_readCells_ne {cells : List Host.Cell} {a : Nat} (h : readCells cells a ≠ Config.memReset a) :
    (a, readCells cells a) ∈ cells := by
  induction cells with
  | nil => exact absurd rfl h
  | cons d rest ih =>
    obtain ⟨k, v⟩ := d
    by_cases hk : k = a
    · subst hk
      rw [readCells, if_pos rfl]
      exact List.mem_cons_self
    · rw [readCells, if_neg hk] at h ⊢
      exact List.mem_cons_of_mem _ (ih h)

theorem Memory.mem_cells_iff {m : Memory} (h : m.wf) (c : Host.Cell) :
    c ∈ m.cells ↔ c.1 < Config.memSize ∧ m.read c.1 = c.2 ∧ c.2 ≠ Config.memReset c.1 := by
  obtain ⟨hsorted, hlisted⟩ := h
  constructor
  · intro hc
    obtain ⟨hlt, hne⟩ := hlisted c hc
    rw [Memory.read, Nat.mod_eq_of_lt hlt]
    exact ⟨hlt, readCells_of_mem hsorted hc, hne⟩
  · rintro ⟨hlt, hread, hne⟩
    rw [Memory.read, Nat.mod_eq_of_lt hlt] at hread
    have hmem := mem_of_readCells_ne (hread ▸ hne)
    rwa [hread] at hmem

/-- Settles O23: the two lists of cells have the same members, and both rise strictly. -/
theorem canonicalMemoriesAreEqual : Obligations.CanonicalMemoriesAreEqual := by
  intro m n hm hn hread
  have hmem (c : Host.Cell) : c ∈ m.cells ↔ c ∈ n.cells := by
    rw [Memory.mem_cells_iff hm, Memory.mem_cells_iff hn]
    exact and_congr_right fun hlt => by rw [hread c.1 hlt]
  have : Std.Irrefl (fun p q : Host.Cell => p.1 < q.1) := ⟨fun p => lt_irrefl p.1⟩
  have : Std.Antisymm (fun p q : Host.Cell => p.1 < q.1) := ⟨fun _ _ hpq hqp => absurd hpq hqp.asymm⟩
  exact congrArg Memory.mk (List.Pairwise.eq_of_mem_iff hm.1 hn.1 hmem)

end Sys2Proof.Machine
end

section
/-! PROOFS. O7, O8, O9, O10, O60: the step, mode by mode (30_encoding.md R45, 44_key_input.md R122, 60_exceptions.md R146). -/

namespace Sys2Proof.Machine

variable {s : State}

/-- The fetch's advance as a number (10_state.md R13). -/
theorem State.advancePc_eq_ofNat (s : State) :
    s.advancePc = { s with pc := BitVec.ofNat 16 ((s.pc.toNat + 2) % 65536) } := by
  rw [← word_add_two_eq_ofNat]
  rfl

/-- Raising with no earlier fault, as the whole next state (60_exceptions.md R145). -/
theorem State.raise_of_fault_eq_none (h : s.fault = none) (r : FaultRecord) :
    s.raise r = { s with fault := some r, mode := .halted } := by
  rw [← s.raise_fault_none r h]
  rfl

theorem exists_exec_eq_next (i : Instr) (s : State) : ∃ t, exec i s = .next t := by
  cases i
  case ret =>
    obtain hnil | ⟨older, a, hlast⟩ := s.stack.eq_nil_or_concat'
    · exact ⟨_, exec_ret_of_empty hnil⟩
    · exact ⟨_, exec_ret_of_stack_eq_append hlast⟩
  case call nnn =>
    by_cases hfull : s.stack.length = Config.stackDepth
    · exact ⟨_, exec_call_of_full nnn hfull⟩
    · exact ⟨_, exec_call_of_not_full nnn hfull⟩
  all_goals exact ⟨_, rfl⟩

theorem step_of_halted (hm : s.mode = .halted) : step s = .fault (.halted s.fault) := by
  simp only [step, hm]

theorem exists_step_eq_next (hm : s.mode ≠ .halted) : ∃ t, step s = .next t := by
  cases hmode : s.mode with
  | run =>
    cases hd : decode s.fetchWord with
    | ok i =>
      obtain ⟨u, he⟩ := exists_exec_eq_next i s.advancePc
      exact ⟨_, step_of_exec hmode hd he⟩
    | error e => exact ⟨_, step_of_decode_error hmode hd⟩
  | waitKey x => exact ⟨_, step_of_waitKey hmode⟩
  | halted => exact absurd hmode hm

/-- Settles O9: a step has an answer in each mode but HALTED, because each instruction has one. -/
theorem onlyHaltedEngineStops : Obligations.OnlyHaltedEngineStops :=
  ⟨fun _ hm => step_of_halted hm, fun _ hm => exists_step_eq_next hm, exists_exec_eq_next⟩

/-- Settles O7: the instruction answers a next state, and the gap follows. -/
theorem stepRunsDecodedInstruction : Obligations.StepRunsDecodedInstruction := by
  intro s i hm hd
  obtain ⟨t, he⟩ := exists_exec_eq_next i s.advancePc
  rw [← State.advancePc_eq_ofNat, he]
  exact step_of_exec hm hd he

/-- Settles O8: the raise halts the engine, so no tick follows. -/
theorem illegalWordHalts : Obligations.IllegalWordHalts := by
  intro s e hm hf hd
  have hraised : (s.advancePc.raise (.decodeFailure s.fetchWord s.pc)).mode = .halted := s.advancePc.raise_mode _
  have hadv : s.advancePc.fault = none := hf
  rw [step_of_decode_error hm hd, State.tickGap_of_halted hraised, State.raise_of_fault_eq_none hadv,
    State.advancePc_eq_ofNat]
  rfl

theorem keyByte_eq_ofNat (k : Nibble) : keyByte k = BitVec.ofNat 8 k.toNat := (BitVec.ofNat_toNat 8 k).symm

/-- Settles O10: the two cases of the event. -/
theorem keyWaitEndsWithKeyEvent : Obligations.KeyWaitEndsWithKeyEvent := by
  intro s x hm
  refine ⟨_, step_of_waitKey hm, ?_⟩
  rw [State.keyEvent]
  cases Config.keyEvent s.draws with
  | none => rfl
  | some k =>
    have hwritten : (s.nextDraw.setV x (keyByte k)).V x = BitVec.ofNat 8 k.toNat :=
      (State.V_setV_same _ x _).trans (keyByte_eq_ofNat k)
    exact ⟨hwritten, fun z hz => s.nextDraw.V_setV_ne x z _ hz, rfl⟩

theorem State.fetchWord_tickGap (s : State) : s.tickGap.fetchWord = s.fetchWord := by
  simp only [State.fetchWord_eq_append, State.tickGap_pc, State.tickGap_memRead]

theorem State.Settled.tickGap (h : s.Settled) : s.tickGap.Settled := by
  rw [State.Settled, State.tickGap_mode, State.tickGap_pc, State.fetchWord_tickGap]
  exact h

/-- Settles O60: the jump puts `PC` back to where it was before the advance, so what is left of the step is the gap. -/
theorem settledProgramStaysSettled : Obligations.SettledProgramStaysSettled := by
  intro s hs
  have ⟨hm, nnn, hpc, hd⟩ := hs
  have hjump : exec (.jp nnn) s.advancePc = .next { s with pc := imm16 nnn } := rfl
  rw [imm16, ← hpc] at hjump
  exact ⟨s.tickGap, step_of_exec hm hd hjump, hs.tickGap, s.tickGap_eq⟩

end Sys2Proof.Machine
end

section
/-! PROOFS. O11, O12: one tick step (60_exceptions.md R153, R154). -/

namespace Sys2Proof.Machine

theorem countDown_eq_ofNat (b : Byte) : countDown b = BitVec.ofNat 8 (b.toNat - 1) := countDownBy_eq_ofNat b 1

theorem countDown_of_toNat_eq_zero {b : Byte} (h : b.toNat = 0) : countDown b = b := by
  apply BitVec.eq_of_toNat_eq
  rw [countDown_toNat, h]

/-- Settles O11: the counter is one less, or the same at 0. -/
theorem delayTickCountsDown : Obligations.DelayTickCountsDown := by
  refine fun s => ⟨fun hm _ => ?_, fun hm hzero => ?_, State.delayTick_of_halted⟩
  · rw [State.delayTick_of_not_halted hm, countDown_eq_ofNat]
    rfl
  · rw [State.delayTick_of_not_halted hm, countDown_of_toNat_eq_zero hzero]
    rfl

/-- Settles O12: the counter as for `DT`, and the tone by what the counter was. -/
theorem soundTickDrivesTone : Obligations.SoundTickDrivesTone := by
  refine fun s => ⟨fun hm hpos => ?_, fun hm hzero => ?_, State.soundTick_of_halted⟩
  · rw [State.soundTick_of_not_halted hm, toneFor_eq_ite, if_pos hpos, countDown_eq_ofNat]
    rfl
  · rw [State.soundTick_of_not_halted hm, toneFor_eq_ite, if_neg hzero.not_gt, countDown_of_toNat_eq_zero hzero]
    rfl

end Sys2Proof.Machine
end

section
/-! PROOFS. O17, O18, O19, O20: reset and load (70_reset_and_hazards.md R171, R172; 20_memory.md R39). -/

namespace Sys2Proof.Machine

theorem State.V_reset (z : Nibble) : State.reset.V z = 0 := Vector.getElem_replicate z.isLt

/-- Settles O17: reset with other parameters differs in the display and in memory, whose bytes are the font or 0. -/
theorem resetValues : Obligations.ResetValues := by
  refine ⟨fun p => ?_, State.resetWith_defaults.symm⟩
  have hframe := State.resetWith_eq p
  exact ⟨fun z => (congrArg (State.V · z) hframe).trans (State.V_reset z), congrArg State.idx hframe,
    congrArg State.pc hframe, congrArg State.stack hframe, congrArg State.dt hframe, congrArg State.st hframe,
    congrArg State.mode hframe, congrArg State.fault hframe, congrArg State.tone hframe,
    congrArg (Display.rows ∘ State.fb) hframe,
    fun a ha => State.memRead_resetWith_zero p a (by omega) (.inl ha),
    fun a hlow ha => State.memRead_resetWith_zero p a ha (.inr hlow), State.memRead_resetWith_font p⟩

section
variable {s : State} {image : List Byte}

theorem State.load_of_length_le (h : image.length ≤ Config.progMax) : s.load image = s.storeBytes Config.progBase image :=
  if_neg h.not_gt

theorem State.load_of_lt_length (h : Config.progMax < image.length) : s.load image = s.raise .loadError := if_pos h

theorem State.Inv.load (h : s.Inv) (image : List Byte) : (s.load image).Inv := by
  by_cases hlen : image.length ≤ Config.progMax
  · rw [State.load_of_length_le hlen]
    exact h.storeBytes _ _
  · rw [State.load_of_lt_length (not_le.mp hlen)]
    exact h.raise _

end

/-- Settles O18: an image that fits is a block store, which does not wrap; a longer one is raised. -/
theorem loadPlacesImageOrFails : Obligations.LoadPlacesImageOrFails := by
  intro p image s t
  refine ⟨fun hfits => ?_, fun hlong => ?_⟩
  · have ht : t = s.storeBytes Config.progBase image := State.load_of_length_le hfits
    rw [ht]
    refine ⟨fun j hj => ?_, fun a ha hout => ?_, s.storeBytes_eq _ _⟩
    · have hlen : image.length ≤ Config.memSize := hfits.trans (by decide)
      exact s.memRead_storeBytes_inside _ image (State.wf_resetWith p) hlen j hj
    · refine s.memRead_storeBytes_outside _ image a fun k hk => ?_
      simp only [Config.memSize, Config.progBase]
      omega
  · have hfault : s.fault = none := congrArg State.fault (State.resetWith_eq p)
    exact (State.load_of_lt_length hlong).trans (State.raise_of_fault_eq_none hfault _)

/-- Settles O19: no cell is listed, the stack is empty, `I` is 0 and the engine runs. -/
theorem resetMeetsInvariant : Obligations.ResetMeetsInvariant :=
  ⟨State.wf_reset, by decide, by decide, by decide⟩

/-- Reset with any parameters is block stores from the default reset. -/
theorem State.inv_resetWith (p : Config.Parameters) : (State.resetWith p).Inv :=
  have hdisplay : (State.reset.setFb ⟨p.fbReset⟩).Inv := resetMeetsInvariant.congr rfl rfl rfl rfl rfl
  hdisplay.storeBytes _ _

/-- Settles O20: the load keeps the invariant of the reset state. -/
theorem everyLoadMeetsInvariant : Obligations.EveryLoadMeetsInvariant := fun p image =>
  (State.inv_resetWith p).load image

end Sys2Proof.Machine
end

section
/-! PROOFS. O30, O33: SUBN and RND (40_arithmetic.md R69, R71). -/

namespace Sys2Proof.Machine

/-- Settles O30: the reversed difference, then the comparison of the operands as read before the write. -/
theorem subnWritesDifferenceThenStrictFlag : Obligations.SubnWritesDifferenceThenStrictFlag := by
  intro x y s
  rw [← byte_sub_eq_ofNat, ← greaterFlag_eq_ite]
  exact ⟨encodes_encode (.subn x y), writesRegThenFlag_of_exec rfl⟩

/-- Settles O33: one register write, and one free answer taken. -/
theorem rndMasksRandomByte : Obligations.RndMasksRandomByte := by
  intro x nn s
  have hwritten := s.nextDraw.V_setV_same x (s.random8 &&& nn)
  refine ⟨encodes_encode (.rnd x nn), s.nextDraw.setV x (s.random8 &&& nn), rfl, hwritten, ?_,
    fun z hz => s.nextDraw.V_setV_ne x z _ hz, rfl⟩
  rw [hwritten, BitVec.and_assoc, BitVec.and_not_self]
  exact BitVec.and_zero

end Sys2Proof.Machine
end

section
/-! PROOFS. O34, O35, O36, O39, O41: control flow (41_control_flow.md). -/

namespace Sys2Proof.Machine

/-- Settles O34: the push is undone. -/
theorem retPopsNewestAddress : Obligations.RetPopsNewestAddress :=
  ⟨encodes_encode .ret, fun _ _ _ h => exec_ret_of_stack_eq_append h⟩

/-- Settles O35: below depth 16 the advanced `PC` is pushed. -/
theorem callPushesAdvancedPc : Obligations.CallPushesAdvancedPc := by
  intro nnn s
  rw [← imm16_eq_ofNat]
  exact ⟨encodes_encode (.call nnn), exec_call_of_not_full nnn⟩

/-- Settles O36: each raises, with no fault recorded before. -/
theorem stackFaultsHaltPrecisely : Obligations.StackFaultsHaltPrecisely := by
  refine ⟨fun s hf hnil => ?_, fun nnn s hf hfull => ?_⟩
  · rw [exec_ret_of_empty hnil, State.raise_of_fault_eq_none hf]
    rfl
  · rw [exec_call_of_full nnn hfull, State.raise_of_fault_eq_none hf]
    rfl

/-- The sum of `NNN` and a byte stays below 65536. -/
theorem toNat_imm16_add_byte16 (nnn : Imm12) (b : Byte) : (imm16 nnn + byte16 b).toNat = nnn.toNat + b.toNat := by
  have hn := nnn.isLt
  have hb := b.isLt
  rw [imm16, byte16, BitVec.toNat_add, BitVec.toNat_setWidth, BitVec.toNat_setWidth]
  omega

/-- Settles O39: the jump writes `PC` only. -/
theorem jpV0AddsWithoutReducing : Obligations.JpV0AddsWithoutReducing := fun nnn s =>
  ⟨encodes_encode (.jpv0 nnn), _, rfl, toNat_imm16_add_byte16 nnn (s.V 0), rfl⟩

/-- The 5 group and the 9 group test the last digit (30_encoding.md R52). -/
theorem exists_decode_eq_error_of_lastDigit_ne {p n : Nibble} (x y : Nibble) (hp : p = 5 ∨ p = 9) (hn : n ≠ 0) :
    ∃ e, decode (p ++ x ++ y ++ n) = .error e := by
  have hop : (p ++ x ++ y ++ n).toNat / 4096 = p.toNat := by rw [← toNat_fieldOp, fieldOp_formR]
  have hdigit : (p ++ x ++ y ++ n).toNat % 16 ≠ 0 := by
    rw [← toNat_fieldN, fieldN_formR]
    exact fun h => hn (BitVec.eq_of_toNat_eq h)
  rw [illegalWordsAreTheSixGroups]
  obtain rfl | rfl := hp
  · exact .inr (.inl ⟨hop, hdigit⟩)
  · exact .inr (.inr (.inr (.inl ⟨hop, hdigit⟩)))

/-- Settles O41: each is one skip, on the comparison of `V[X]` with `V[Y]`. -/
theorem registerSkips : Obligations.RegisterSkips := fun x y _ =>
  ⟨⟨encodes_encode (.se x y), skips_of_exec rfl beq_iff_eq⟩, ⟨encodes_encode (.sne x y), skips_of_exec rfl bne_iff_ne⟩,
    fun _ hn => ⟨exists_decode_eq_error_of_lastDigit_ne x y (.inl rfl) hn,
      exists_decode_eq_error_of_lastDigit_ne x y (.inr rfl) hn⟩⟩

end Sys2Proof.Machine
end

section
/-! PROOFS. O51, O52: the key-input instructions (44_key_input.md). -/

namespace Sys2Proof.Machine

theorem State.lowNibble_eq_ofNat (s : State) (x : Nibble) : s.lowNibble x = BitVec.ofNat 4 ((s.V x).toNat % 16) := by
  apply BitVec.eq_of_toNat_eq
  rw [State.lowNibble, BitVec.toNat_setWidth, BitVec.toNat_ofNat, Nat.mod_mod]

/-- Settles O51: one answer, and the skip on it or on its negation. -/
theorem keySkipsAskLowNibble : Obligations.KeySkipsAskLowNibble := by
  intro x s
  have hskp : exec (.skp x) s = .next (s.nextDraw.skipIf (s.keyHeld (s.lowNibble x))) := rfl
  have hsknp : exec (.sknp x) s = .next (s.nextDraw.skipIf (!s.keyHeld (s.lowNibble x))) := rfl
  rw [← State.lowNibble_eq_ofNat, hskp, hsknp, State.skipIf_eq, State.skipIf_eq, State.keyHeld]
  refine ⟨⟨encodes_encode (.skp x), rfl⟩, ⟨encodes_encode (.sknp x), ?_⟩⟩
  cases Config.keyHeld s.draws (s.lowNibble x) <;> rfl

/-- Settles O52: one write of `MODE`. -/
theorem waitkBeginsKeyWait : Obligations.WaitkBeginsKeyWait := fun x _ => ⟨encodes_encode (.waitk x), rfl⟩

end Sys2Proof.Machine
end
